-- ==== Sys2Proof/Word.lean ====
section
/-! DEFINITION. The word types of WS-I2CM/UTX (00_scope R11, R16) and the two-valued direction. -/

namespace Sys2Proof

/-- A host word: every register and every host address is 32 bits wide (R11). -/
abbrev Word := BitVec 32

/-- An I2C data or address byte, and a UTX data byte (R11). -/
abbrev Byte := BitVec 8

/-- Read or write: the direction of a host access (R81 W, R162 dir) and of an I2C transaction (R98 DIR). -/
inductive Direction where
  | write
  | read
  deriving DecidableEq, Repr, Inhabited

end Sys2Proof
end

