-- ==== Sys2Proof/Config.lean ====
section
/-! DEFINITION. What an implementation or a launch fixes (00_scope R5 to R19: the OPEN parameters), and the free
values of the model: which agent moves next, and what SLAVE answers. The two opaque constants have no body. -/

namespace Sys2Proof

/-- The two legal register selectors (R9). An illegal selector cannot be written down (R152). -/
inductive Selector where
  | temp
  | pres
  deriving DecidableEq, Repr, Inhabited

/-- How the host sequence `send` moves a 16-bit value (R15). -/
inductive SendMode where
  | truncate
  | splitMsbFirst
  deriving DecidableEq, Repr, Inhabited

/-- The OPEN parameters, each an argument of the model (section 3 of 00_scope). What the rules ask of their values is
`Params.wf` (WellFormed.lean). -/
structure Params where
  /-- F_PCLK (R5), hertz. -/
  fPclk : Nat
  /-- F_SCL_TARGET (R6), hertz. -/
  fSclTarget : Nat
  /-- BAUD_RATE (R7), bits per second. -/
  baudRate : Nat
  /-- SLAVE_ADDR7 (R8). -/
  slaveAddr7 : BitVec 7
  /-- SEL_TEMP (R9). -/
  selTemp : Byte
  /-- CLK_BASE (R10). -/
  clkBase : Word
  /-- I2CM_BASE (R10). -/
  i2cmBase : Word
  /-- UTX_BASE (R10). -/
  utxBase : Word
  /-- PINS_ROUTED_I2C (R12). -/
  pinsRoutedI2c : Bool
  /-- PINS_ROUTED_UTX (R12). -/
  pinsRoutedUtx : Bool
  /-- SLAVE_FAIR (R13). -/
  slaveFair : Bool
  /-- DELAY_SPIN (R14). -/
  delaySpin : Nat
  /-- SEND_MODE (R15). -/
  sendMode : SendMode
  /-- OWN_ADDR7 (R19). -/
  ownAddr7 : BitVec 7
  /-- POLL_SELS (R19). -/
  pollSels : List Selector
  deriving DecidableEq, Repr, Inhabited

/-- SEL_PRES (R9; 90_conflicts C1). -/
def selPres : Byte := 0x34#8

/-- The example values of 95_test_vectors.md, with SEL_TEMP (a symbol there) taken as 0x33. They are used by tests and
witnesses only: no definition of the machine reads them. -/
def exampleParams : Params where
  fPclk := 16000000
  fSclTarget := 100000
  baudRate := 9600
  slaveAddr7 := 0x77#7
  selTemp := 0x33#8
  clkBase := 0x40000000#32
  i2cmBase := 0x40000100#32
  utxBase := 0x40000200#32
  pinsRoutedI2c := true
  pinsRoutedUtx := true
  slaveFair := true
  delaySpin := 3
  sendMode := .truncate
  ownAddr7 := 0x00#7
  pollSels := [.temp]

/-- The agents that take steps (R4). SLAVE takes none: it answers draws and releases the bus (R35). -/
inductive Agent where
  | host
  | engine
  | tx
  deriving DecidableEq, Repr, Inhabited

/-- The free values of one step: the agent that moves (R4, R165), whether SLAVE releases the bus in this step (R125),
the acknowledge bit that `draw_ack()` returns and the byte that `draw_byte()` returns (R35). -/
structure Choice where
  turn : Agent
  release : Bool
  ack : Bool
  byte : Byte
  deriving DecidableEq, Repr, Inhabited

/-- The platform's values of the OPEN parameters (log 1). DESIGN CHOICE, safe: no body. -/
opaque Config.params : Params

/-- The free values of the n-th step (log 2, log 3). DESIGN CHOICE, safe: no body. -/
opaque Config.choice : Nat → Choice

end Sys2Proof
end

