-- ==== Sys2Proof/Machine/RegisterMap.lean ====
section
/-! DEFINITION. The three units and their registers (30_encoding R82 to R84): where each register stands and which
directions it allows. -/

namespace Sys2Proof

/-- The three units (R1). -/
inductive BlockUnit where
  | clk
  | i2cm
  | utx
  deriving DecidableEq, Repr, Inhabited

/-- The registers of the three windows (R82, R83, R84). -/
inductive RegName where
  | clkClken
  | i2cmCtrl
  | i2cmClkdiv
  | i2cmOwnaddr
  | i2cmCmd
  | i2cmStatus
  | i2cmRxdata
  | utxCtrl
  | utxBaud
  | utxFrame
  | utxData
  | utxStatus
  deriving DecidableEq, Repr, Inhabited

/-- The unit a register belongs to (R82 to R84). -/
def RegName.unit : RegName → BlockUnit
  | .clkClken => .clk
  | .i2cmCtrl | .i2cmClkdiv | .i2cmOwnaddr | .i2cmCmd | .i2cmStatus | .i2cmRxdata => .i2cm
  | .utxCtrl | .utxBaud | .utxFrame | .utxData | .utxStatus => .utx

/-- The byte offset of a register in its window (R82 to R84). -/
def RegName.off : RegName → Byte
  | .clkClken | .i2cmCtrl | .utxCtrl => 0x00#8
  | .i2cmClkdiv | .utxBaud => 0x04#8
  | .i2cmOwnaddr | .utxFrame => 0x08#8
  | .i2cmCmd | .utxData => 0x0C#8
  | .i2cmStatus | .utxStatus => 0x10#8
  | .i2cmRxdata => 0x14#8

/-- The register at an offset of a window, if there is one (R82 to R84); there are no aliases (R65). -/
def regAt (u : BlockUnit) (off : Byte) : Option RegName :=
  match u with
  | .clk => if off = 0x00#8 then some .clkClken else none
  | .i2cm =>
    if off = 0x00#8 then some .i2cmCtrl
    else if off = 0x04#8 then some .i2cmClkdiv
    else if off = 0x08#8 then some .i2cmOwnaddr
    else if off = 0x0C#8 then some .i2cmCmd
    else if off = 0x10#8 then some .i2cmStatus
    else if off = 0x14#8 then some .i2cmRxdata
    else none
  | .utx =>
    if off = 0x00#8 then some .utxCtrl
    else if off = 0x04#8 then some .utxBaud
    else if off = 0x08#8 then some .utxFrame
    else if off = 0x0C#8 then some .utxData
    else if off = 0x10#8 then some .utxStatus
    else none

/-- The base address of a unit's window (R10). -/
def Params.base (p : Params) : BlockUnit → Word
  | .clk => p.clkBase
  | .i2cm => p.i2cmBase
  | .utx => p.utxBase

/-- The 256 bytes from `base` on hold `addr` (R61, as naturals, so that nothing wraps). -/
def inWindow (base addr : Word) : Bool :=
  decide (base.toNat ≤ addr.toNat) && decide (addr.toNat < base.toNat + 256)

/-- R61: the unit and offset a host address decodes to; none when it is not an access to this block. -/
def decodeAddr (p : Params) (addr : Word) : Option (BlockUnit × Byte) :=
  if inWindow p.clkBase addr then some (.clk, (addr - p.clkBase).setWidth 8)
  else if inWindow p.i2cmBase addr then some (.i2cm, (addr - p.i2cmBase).setWidth 8)
  else if inWindow p.utxBase addr then some (.utx, (addr - p.utxBase).setWidth 8)
  else none

/-- The UNIT field of an ACC descriptor (R81). -/
def BlockUnit.code : BlockUnit → BitVec 2
  | .clk => 0b00#2
  | .i2cm => 0b01#2
  | .utx => 0b10#2

/-- The unit a UNIT field names; 0b11 names none (R81). -/
def unitOfCode (c : BitVec 2) : Option BlockUnit :=
  if c = 0b00#2 then some .clk
  else if c = 0b01#2 then some .i2cm
  else if c = 0b10#2 then some .utx
  else none

/-- One bit for a direction as the ACC descriptor's W field has it: 1 for a write (R81). -/
def Direction.wBit : Direction → BitVec 1
  | .write => 1#1
  | .read => 0#1

/-- One bit for a direction as the address byte has it: 1 for a read (R98). -/
def Direction.dirBit : Direction → BitVec 1
  | .write => 0#1
  | .read => 1#1

/-- R81: `desc = {UNIT, W, 0b00000, OFF}`. -/
def accDesc (u : BlockUnit) (d : Direction) (off : Byte) : BitVec 16 :=
  u.code ++ d.wBit ++ 0#5 ++ off

end Sys2Proof
end

