-- ==== Sys2Proof/Syntax.lean ====
section
/-! DEFINITION. The instructions of WS-I2CM/UTX: one constructor for each row of spec/opcode_table.json, in its order
(30_encoding R80). Every operand has the width its encoding gives it, so no constructor has an ill-formed operand. -/

namespace Sys2Proof

/-- An instruction is a register access named by its ACC descriptor, or an I2CM command named by its CMD word (R80). -/
inductive Instr where
  /-- `ld CLK.CLKEN` (R103). -/
  | ldClkClken
  /-- `st CLK.CLKEN, v` (R104). -/
  | stClkClken (v : Word)
  /-- `ld I2CM.CTRL` (R106). -/
  | ldI2cmCtrl
  /-- `st I2CM.CTRL, v` (R107). -/
  | stI2cmCtrl (v : Word)
  /-- `ld I2CM.CLKDIV` (R108). -/
  | ldI2cmClkdiv
  /-- `st I2CM.CLKDIV, v` (R109). -/
  | stI2cmClkdiv (v : Word)
  /-- `ld I2CM.OWNADDR` (R111). -/
  | ldI2cmOwnaddr
  /-- `st I2CM.OWNADDR, v` (R112). -/
  | stI2cmOwnaddr (v : Word)
  /-- `st I2CM.CMD, v` (R116). -/
  | stI2cmCmd (v : Word)
  /-- `ld I2CM.STATUS` (R113). -/
  | ldI2cmStatus
  /-- `ld I2CM.RXDATA` (R114). -/
  | ldI2cmRxdata
  /-- `ld UTX.CTRL` (R129). -/
  | ldUtxCtrl
  /-- `st UTX.CTRL, v` (R130). -/
  | stUtxCtrl (v : Word)
  /-- `ld UTX.BAUD` (R131). -/
  | ldUtxBaud
  /-- `st UTX.BAUD, v` (R132). -/
  | stUtxBaud (v : Word)
  /-- `ld UTX.FRAME` (R134). -/
  | ldUtxFrame
  /-- `st UTX.FRAME, v` (R135). -/
  | stUtxFrame (v : Word)
  /-- `st UTX.DATA, v`, `uart.data v` (R136). -/
  | stUtxData (v : Word)
  /-- `ld UTX.STATUS` (R137). -/
  | ldUtxStatus
  /-- `i2c.start` (R118). -/
  | i2cStart
  /-- `i2c.addr A7, DIR` (R119). -/
  | i2cAddr (a7 : BitVec 7) (dir : Direction)
  /-- `i2c.write #b` (R120). -/
  | i2cWrite (b : Byte)
  /-- `i2c.read_ack` (R121). -/
  | i2cReadAck
  /-- `i2c.read_nack` (R122). -/
  | i2cReadNack
  /-- `i2c.stop` (R123). -/
  | i2cStop
  /-- A command word with the reserved OP 0b000; `rest` is its bits [31:3] (R97, R116). -/
  | reservedOp0 (rest : BitVec 29)
  /-- A command word with the reserved OP 0b111; `rest` is its bits [31:3] (R97, R116). -/
  | reservedOp7 (rest : BitVec 29)
  deriving DecidableEq, Repr, Inhabited

end Sys2Proof
end

