-- ==== Sys2Proof/Decode.lean ====
section
/-! DEFINITION. Decoding of the two encoded instruction formats, ACC and CMD (30_encoding R80, R81, R89, R97, R98), total
on all bits and rejecting by name; and the encoder, written from the encodings the rules give each instruction. -/

namespace Sys2Proof

/-- An instruction in encoded form (log 10): an ACC descriptor with the 32-bit word beside it that a write carries (a
read carries none, and the decoder ignores the word), or a CMD word. -/
inductive Encoded where
  | acc (desc : BitVec 16) (data : Word)
  | cmd (word : Word)
  deriving DecidableEq, Repr, Inhabited

/-- Why bits are no instruction (R99). -/
inductive DecodeError where
  /-- UNIT = 0b11: never formed, not this block (R81). -/
  | notThisBlock
  /-- A 1 in bits [12:8] of a descriptor: never formed (R81). -/
  | nonzeroField
  /-- No register at the offset (R65: F02); an unaligned OFF, which no access forms, is read so too (log 28). -/
  | unmapped (u : BlockUnit) (off : Byte)
  /-- A write to a read-only register (R65: F04). -/
  | writeToReadOnly (r : RegName)
  /-- A read of a write-only register (R65: F05). -/
  | readOfWriteOnly (r : RegName)
  /-- A 1 in a reserved bit of a CMD word (R89: F06). -/
  | reservedBits
  /-- A nonzero BYTE with an OP that has no operand (R89: F06). -/
  | operandByte
  deriving DecidableEq, Repr, Inhabited

/-- The instruction that accesses a register in a direction (R82 to R84, the access column). -/
def accInstr (r : RegName) (d : Direction) (v : Word) : Except DecodeError Instr :=
  match r, d with
  | .clkClken, .read => .ok .ldClkClken
  | .clkClken, .write => .ok (.stClkClken v)
  | .i2cmCtrl, .read => .ok .ldI2cmCtrl
  | .i2cmCtrl, .write => .ok (.stI2cmCtrl v)
  | .i2cmClkdiv, .read => .ok .ldI2cmClkdiv
  | .i2cmClkdiv, .write => .ok (.stI2cmClkdiv v)
  | .i2cmOwnaddr, .read => .ok .ldI2cmOwnaddr
  | .i2cmOwnaddr, .write => .ok (.stI2cmOwnaddr v)
  | .i2cmCmd, .read => .error (.readOfWriteOnly .i2cmCmd)
  | .i2cmCmd, .write => .ok (.stI2cmCmd v)
  | .i2cmStatus, .read => .ok .ldI2cmStatus
  | .i2cmStatus, .write => .error (.writeToReadOnly .i2cmStatus)
  | .i2cmRxdata, .read => .ok .ldI2cmRxdata
  | .i2cmRxdata, .write => .error (.writeToReadOnly .i2cmRxdata)
  | .utxCtrl, .read => .ok .ldUtxCtrl
  | .utxCtrl, .write => .ok (.stUtxCtrl v)
  | .utxBaud, .read => .ok .ldUtxBaud
  | .utxBaud, .write => .ok (.stUtxBaud v)
  | .utxFrame, .read => .ok .ldUtxFrame
  | .utxFrame, .write => .ok (.stUtxFrame v)
  | .utxData, .read => .error (.readOfWriteOnly .utxData)
  | .utxData, .write => .ok (.stUtxData v)
  | .utxStatus, .read => .ok .ldUtxStatus
  | .utxStatus, .write => .error (.writeToReadOnly .utxStatus)

/-- The W field of a descriptor as a direction (R81). -/
def accDirection (desc : BitVec 16) : Direction :=
  if desc.getLsbD 13 then .write else .read

/-- Decoding of an ACC descriptor (R81) with its data word. -/
def decodeAcc (desc : BitVec 16) (v : Word) : Except DecodeError Instr :=
  if desc.extractLsb' 8 5 ≠ 0#5 then .error .nonzeroField
  else
    match unitOfCode (desc.extractLsb' 14 2) with
    | none => .error .notThisBlock
    | some u =>
      match regAt u (desc.extractLsb' 0 8) with
      | none => .error (.unmapped u (desc.extractLsb' 0 8))
      | some r => accInstr r (accDirection desc) v

/-- A command whose OP has no operand: BYTE must be 0x00 (R98, R99). -/
def plainCommand (b : Byte) (i : Instr) : Except DecodeError Instr :=
  if b = 0#8 then .ok i else .error .operandByte

/-- Decoding of a CMD word (R89, R97, R98). The reserved codes 0b000 and 0b111 decode whatever the other bits are, as in
the opcode table (log 12). -/
def decodeCmd (w : Word) : Except DecodeError Instr :=
  if w.extractLsb' 0 3 = 0b000#3 then .ok (.reservedOp0 (w.extractLsb' 3 29))
  else if w.extractLsb' 0 3 = 0b111#3 then .ok (.reservedOp7 (w.extractLsb' 3 29))
  else if w.extractLsb' 16 16 ≠ 0#16 ∨ w.extractLsb' 3 5 ≠ 0#5 then .error .reservedBits
  else if w.extractLsb' 0 3 = 0b001#3 then plainCommand (w.extractLsb' 8 8) .i2cStart
  else if w.extractLsb' 0 3 = 0b010#3 then
    .ok (.i2cAddr (w.extractLsb' 9 7) (if w.getLsbD 8 then .read else .write))
  else if w.extractLsb' 0 3 = 0b011#3 then .ok (.i2cWrite (w.extractLsb' 8 8))
  else if w.extractLsb' 0 3 = 0b100#3 then plainCommand (w.extractLsb' 8 8) .i2cReadAck
  else if w.extractLsb' 0 3 = 0b101#3 then plainCommand (w.extractLsb' 8 8) .i2cReadNack
  else plainCommand (w.extractLsb' 8 8) .i2cStop

/-- The decoder: total on both formats. -/
def decode : Encoded → Except DecodeError Instr
  | .acc desc data => decodeAcc desc data
  | .cmd w => decodeCmd w

/-- The opcode table's bits of an instruction in encoded form: a 16-bit row is an ACC descriptor (its data word then is
all zeros), and every other row is a CMD word (log 10). -/
def encodedOfTableWord (nbits w : Nat) : Encoded :=
  if nbits = 16 then .acc (BitVec.ofNat 16 w) 0#32 else .cmd (BitVec.ofNat 32 w)

/-- What the decoder reads from the opcode table's bits of an instruction. -/
def decodeTableWord (nbits w : Nat) : Option Instr :=
  match decode (encodedOfTableWord nbits w) with
  | .ok i => some i
  | .error _ => none

/-- The encoding each rule gives its instruction ("Encoding:" of R103 to R137; R97, R98 for the commands). -/
def encode : Instr → Encoded
  | .ldClkClken => .acc 0x0000#16 0#32
  | .stClkClken v => .acc 0x2000#16 v
  | .ldI2cmCtrl => .acc 0x4000#16 0#32
  | .stI2cmCtrl v => .acc 0x6000#16 v
  | .ldI2cmClkdiv => .acc 0x4004#16 0#32
  | .stI2cmClkdiv v => .acc 0x6004#16 v
  | .ldI2cmOwnaddr => .acc 0x4008#16 0#32
  | .stI2cmOwnaddr v => .acc 0x6008#16 v
  | .stI2cmCmd v => .acc 0x600C#16 v
  | .ldI2cmStatus => .acc 0x4010#16 0#32
  | .ldI2cmRxdata => .acc 0x4014#16 0#32
  | .ldUtxCtrl => .acc 0x8000#16 0#32
  | .stUtxCtrl v => .acc 0xA000#16 v
  | .ldUtxBaud => .acc 0x8004#16 0#32
  | .stUtxBaud v => .acc 0xA004#16 v
  | .ldUtxFrame => .acc 0x8008#16 0#32
  | .stUtxFrame v => .acc 0xA008#16 v
  | .stUtxData v => .acc 0xA00C#16 v
  | .ldUtxStatus => .acc 0x8010#16 0#32
  | .i2cStart => .cmd 0x00000001#32
  | .i2cAddr a7 dir => .cmd (0x0000#16 ++ (a7 ++ dir.dirBit) ++ 0x02#8)
  | .i2cWrite b => .cmd (0x0000#16 ++ b ++ 0x03#8)
  | .i2cReadAck => .cmd 0x00000004#32
  | .i2cReadNack => .cmd 0x00000005#32
  | .i2cStop => .cmd 0x00000006#32
  | .reservedOp0 rest => .cmd (rest ++ 0b000#3)
  | .reservedOp7 rest => .cmd (rest ++ 0b111#3)

end Sys2Proof
end

