-- ==== Sys2Proof/Machine/HostSyntax.lean ====
section
/-! DEFINITION. The host assembly of 30_encoding R101 with the accesses of 00_scope R17, and the pseudo-instructions of
R102. It belongs to the host agent and not to the block. -/

namespace Sys2Proof.Machine

/-- A host register r0..r7 (R101). -/
abbrev Reg := Fin 8

/-- A store's source: `#imm32` or a host register (R101). -/
inductive Src where
  | imm (v : Word)
  | reg (r : Reg)
  deriving DecidableEq, Repr, Inhabited

/-- One host operation. A branch target is the index of an operation of the host program. -/
inductive HostOp where
  /-- `rd <- MemRead(addr, n)` (R17). -/
  | memRead (rd : Reg) (addr : Word) (n : Nat)
  /-- `MemWrite(addr, n, src)` (R17). -/
  | memWrite (addr : Word) (n : Nat) (src : Src)
  /-- `ld rd, U.REG` (R101). -/
  | ld (rd : Reg) (r : RegName)
  /-- `st U.REG, src` (R101). -/
  | st (r : RegName) (src : Src)
  /-- An access given in encoded form: an ACC descriptor with its data, or an I2CM command word. -/
  | encoded (e : Encoded)
  /-- `mov rd, #imm` (R101). -/
  | mov (rd : Reg) (imm : Word)
  /-- `shl rd, rs, #n` (R101). -/
  | shl (rd rs : Reg) (n : Nat)
  /-- `shr rd, rs, #n` (R101). -/
  | shr (rd rs : Reg) (n : Nat)
  /-- `or rd, rs, rt` (R101). -/
  | or (rd rs rt : Reg)
  /-- `and rd, rs, #imm` (R101). -/
  | and (rd rs : Reg) (imm : Word)
  /-- `dec rd` (R101); what it does at 0 is the model's choice (log 26). -/
  | dec (rd : Reg)
  /-- `bnz rd, L` (R101). -/
  | bnz (rd : Reg) (target : Nat)
  /-- `if rs != val then pc <- L`, the last part of the expansion of `wait` (R101). -/
  | bne (rs : Reg) (val : Word) (target : Nat)
  /-- `b L` (R101). -/
  | b (target : Nat)
  deriving DecidableEq, Repr, Inhabited

/-- The pseudo-instructions (R102). -/
inductive Pseudo where
  /-- `i2c.cmd_wait` (R144). -/
  | cmdWait
  /-- `beginTransaction dir` (R145). -/
  | beginTransaction (dir : Direction)
  /-- `busWrite #b` (R146). -/
  | busWrite (b : Byte)
  /-- `busRead rd, last` (R147). -/
  | busRead (rd : Reg) (last : Bool)
  /-- `endTransaction` (R148). -/
  | endTransaction
  /-- `readRegister rd, #sel` (R150). -/
  | readRegister (rd : Reg) (sel : Selector)
  /-- `send rs` (R153). -/
  | send (rs : Reg)
  /-- `init` (R155). -/
  | init
  /-- `pollLoop` (R157). -/
  | pollLoop
  deriving DecidableEq, Repr, Inhabited

end Sys2Proof.Machine
end

