-- ==== Sys2Proof/Machine/State.lean ====
section
/-! DEFINITION. The state of the machine (10_state), as plain data, and the state after reset (70_reset R177, R178).
The three units, the model-level FAULT, the host agent of R101, and the model's own fields (INVENTORY.md, State). -/

namespace Sys2Proof.Machine

/-- PHASE, the bus-transaction state machine: the eight codes of R28. -/
inductive Phase where
  | idle
  | started
  | addrW
  | addrR
  | dataW
  | dataR
  | dataRLast
  | stopped
  deriving DecidableEq, Repr, Inhabited

/-- A command PENDING can hold (R30). -/
inductive Command where
  | start
  | addr (b : Byte)
  | write (b : Byte)
  | readAck
  | readNack
  | stop
  deriving DecidableEq, Repr, Inhabited

/-- A wire event of BUS_TRACE (R34); an acknowledge bit is true for ACK. -/
inductive BusEvent where
  | start
  | byteOut (b : Byte) (a : Bool)
  | byteIn (b : Byte) (a : Bool)
  | stop
  deriving DecidableEq, Repr, Inhabited

/-- The fault codes F01 to F20, by name (R162). -/
inductive FaultCode where
  /-- F01 -/
  | clockGated
  /-- F02 -/
  | unmapped
  /-- F03 -/
  | badWidth
  /-- F04 -/
  | writeToReadOnly
  /-- F05 -/
  | readOfWriteOnly
  /-- F06 -/
  | reservedBits
  /-- F07 -/
  | configWhileEnabled
  /-- F08 -/
  | notEnabled
  /-- F09 -/
  | cmdWhileBusy
  /-- F10 -/
  | illegalCommand
  /-- F11 -/
  | sequence
  /-- F12 -/
  | ackOnFinalByte
  /-- F13 -/
  | readAfterFinal
  /-- F14 -/
  | cmdAfterSlaveNack
  /-- F15 -/
  | tdrOverwrite
  /-- F16 -/
  | unsupportedConfig
  /-- F17 -/
  | disableWhileActive
  /-- F18 -/
  | clockOffWhileEnabled
  /-- F19 -/
  | pinsNotRouted
  /-- F20 -/
  | unwrittenRead
  deriving DecidableEq, Repr, Inhabited

/-- `info` of a fault: the tuple (addr, n, dir, v) of the offending access; v is none for a read (R162). -/
structure AccessInfo where
  addr : Word
  width : Nat
  dir : Direction
  value : Option Word
  deriving DecidableEq, Repr, Inhabited

/-- What FAULT holds (R43, R162): the code, the access, and PHASE for F11 to F14. -/
structure FaultRecord where
  code : FaultCode
  info : AccessInfo
  phase : Option Phase
  deriving DecidableEq, Repr, Inhabited

/-- The CLK unit. -/
structure ClkState where
  /-- CLKEN_I2C (R22). -/
  i2c : Bool
  /-- CLKEN_UTX (R23). -/
  utx : Bool
  deriving DecidableEq, Repr, Inhabited

/-- The I2CM unit. -/
structure I2cmState where
  /-- I2C_EN (R24). -/
  en : Bool
  /-- CLKDIV (R25). -/
  clkdiv : BitVec 16
  /-- OWNADDR (R26). -/
  ownaddr : BitVec 7
  /-- PHASE (R28). -/
  phase : Phase
  /-- BUSY (R29). -/
  busy : Bool
  /-- PENDING (R30). -/
  pending : Option Command
  /-- ACK (R31): true is ACK. -/
  ack : Bool
  /-- NACKF (R32). -/
  nackf : Bool
  /-- RXDATA (R33): none is the spec's "unwritten". -/
  rxdata : Option Byte
  /-- BUS_TRACE (R34), oldest event first. -/
  busTrace : List BusEvent
  deriving DecidableEq, Repr, Inhabited

/-- The UTX unit. -/
structure UtxState where
  /-- UTX_EN (R36). -/
  en : Bool
  /-- BAUD (R37). -/
  baud : BitVec 16
  /-- FRAME (R38). -/
  frame : Byte
  /-- TDR (R39): none is empty. -/
  tdr : Option Byte
  /-- SHIFT (R40): none means no byte is being sent. -/
  shift : Option Byte
  /-- LINE_TRACE (R41), oldest byte first. -/
  lineTrace : List Byte
  /-- TC (R42). -/
  tc : Bool
  deriving DecidableEq, Repr, Inhabited

/-- The host agent (R101): its registers, its program counter and its program. -/
structure HostState where
  /-- r0..r7 (R101). -/
  regs : Vector Word 8
  /-- The index of the host operation to come (R17, R21). -/
  pc : Nat
  /-- The host program; the host is at its end when pc is past it (R189). -/
  program : List HostOp
  deriving DecidableEq, Repr

/-- The machine. `readData`, `params`, `choice` and `tick` are the model's own fields (log 1, 4, 8). -/
structure State where
  clk : ClkState
  i2cm : I2cmState
  utx : UtxState
  /-- FAULT (R43). -/
  fault : Option FaultRecord
  host : HostState
  /-- The word the last completed MemRead returned: `result` of R103 and its like (log 8). -/
  readData : Word
  /-- The OPEN parameters, constant for a run (log 1). -/
  params : Params
  /-- The free values of the step to come (log 2, 3). -/
  choice : Choice
  /-- The number of the free values to take next (log 4). -/
  tick : Nat
  deriving DecidableEq, Repr

/-- Why the machine answers no next state. -/
inductive Fault where
  /-- reg[FAULT] is set, so no agent has an enabled step (R163). Raised by every access and by `step` in such a state;
  safe: the spec says the run has stopped (log 5). -/
  | runStopped (code : FaultCode)
  deriving DecidableEq, Repr

/-- Why an operation is refused. -/
inductive Refusal where
  /-- An instruction with no meaning yet; raised by `exec`'s arm of it alone. Safe. -/
  | notModelled (mnemonic : String)
  /-- A host access outside the three windows, of which the spec says nothing (R60); raised by `memAccess`. Safe. -/
  | outsideWindows
  /-- A descriptor that no access forms: UNIT = 0b11 or a 1 in bits [12:8] (R81); raised by `refuseEncoding`. Safe. -/
  | descriptorNeverFormed
  deriving DecidableEq, Repr

/-- The CLK unit after reset (R22, R23). -/
def ClkState.reset : ClkState where
  i2c := false
  utx := false

/-- The I2CM unit after reset (R24 to R34, R178). -/
def I2cmState.reset : I2cmState where
  en := false
  clkdiv := 0#16
  ownaddr := 0x00#7
  phase := .idle
  busy := false
  pending := none
  ack := false
  nackf := false
  rxdata := none
  busTrace := []

/-- The UTX unit after reset (R36 to R42, R178). -/
def UtxState.reset : UtxState where
  en := false
  baud := 0#16
  frame := 0x08#8
  tdr := none
  shift := none
  lineTrace := []
  tc := true

/-- The host agent before its program is placed. DESIGN CHOICE, unsafe: the spec gives r0..r7 and the host's program
counter no reset value; the model takes zero (log 6). No program is placed (log 7). -/
def HostState.reset : HostState where
  regs := Vector.replicate 8 0#32
  pc := 0
  program := []

/-- The free values of the very first step. DESIGN CHOICE, safe: HOST is the only agent with a step to take after reset,
and no completion reads the rest before they are replaced (log 4). -/
def resetChoice : Choice where
  turn := .host
  release := false
  ack := false
  byte := 0#8

/-- The machine right after power-on reset (R177, R178) on a platform with the parameters p. -/
def State.resetWith (p : Params) : State where
  clk := .reset
  i2cm := .reset
  utx := .reset
  fault := none
  host := .reset
  readData := 0#32
  params := p
  choice := resetChoice
  tick := 0

/-- The machine right after power-on reset (R177, R178); its parameters are the platform's, of which nothing is known. -/
def State.reset : State := State.resetWith Config.params

end Sys2Proof.Machine
end

