-- ==== Sys2Proof/Machine/Flags.lean ====
section
/-! DEFINITION. The status flags and the words a host reads them in (10_state R28, R45; 30_encoding R90, R96), and the
numbers of the fault codes (60_exceptions R162). -/

namespace Sys2Proof.Machine

/-- The code of PHASE (R28). -/
def Phase.code : Phase → BitVec 3
  | .idle => 0#3
  | .started => 1#3
  | .addrW => 2#3
  | .addrR => 3#3
  | .dataW => 4#3
  | .dataR => 5#3
  | .dataRLast => 6#3
  | .stopped => 7#3

/-- No transaction is open: PHASE is IDLE or STOPPED (R115). -/
def Phase.atRest : Phase → Bool
  | .idle | .stopped => true
  | .started | .addrW | .addrR | .dataW | .dataR | .dataRLast => false

/-- PHASE is one of ADDR_W, ADDR_R and DATA_W: the phases in which a set NACKF leaves only STOP (R117). -/
def Phase.nackSensitive : Phase → Bool
  | .addrW | .addrR | .dataW => true
  | .idle | .started | .dataR | .dataRLast | .stopped => false

/-- One bit as a vector. -/
def bit1 (b : Bool) : BitVec 1 := BitVec.ofBool b

/-- `STATUS = {25'b0, PHASE[2:0], 1'b0, NACKF, ACK, BUSY}` (R90, R113). -/
def i2cmStatusWord (m : I2cmState) : Word :=
  0#25 ++ m.phase.code ++ 0#1 ++ bit1 m.nackf ++ bit1 m.ack ++ bit1 m.busy

/-- TXE is 1 when TDR is empty (R39). -/
def txe (u : UtxState) : Bool := u.tdr.isNone

/-- `STATUS = {30'b0, TC, TXE}` (R96, R137). -/
def utxStatusWord (u : UtxState) : Word := 0#30 ++ bit1 u.tc ++ bit1 (txe u)

/-- `{30'b0, CLKEN_UTX, CLKEN_I2C}` (R85, R103). -/
def clkenWord (c : ClkState) : Word := 0#30 ++ bit1 c.utx ++ bit1 c.i2c

/-- `{31'b0, EN}` (R86, R92). -/
def enableWord (en : Bool) : Word := 0#31 ++ bit1 en

/-- NACKF after SLAVE answers a byte with the acknowledge bit a: set on NACK, else kept (R32, R119, R120). -/
def nackfAfter (a old : Bool) : Bool := if a then old else true

/-- TC after a shift-out: set when TDR is empty, else kept (R42, R139). -/
def tcAfterShiftOut (u : UtxState) : Bool := if u.tdr.isNone then true else u.tc

/-- The number nn of the code Fnn (R162). -/
def FaultCode.number : FaultCode → Nat
  | .clockGated => 1
  | .unmapped => 2
  | .badWidth => 3
  | .writeToReadOnly => 4
  | .readOfWriteOnly => 5
  | .reservedBits => 6
  | .configWhileEnabled => 7
  | .notEnabled => 8
  | .cmdWhileBusy => 9
  | .illegalCommand => 10
  | .sequence => 11
  | .ackOnFinalByte => 12
  | .readAfterFinal => 13
  | .cmdAfterSlaveNack => 14
  | .tdrOverwrite => 15
  | .unsupportedConfig => 16
  | .disableWhileActive => 17
  | .clockOffWhileEnabled => 18
  | .pinsNotRouted => 19
  | .unwrittenRead => 20

/-- The faults whose record holds PHASE besides the access: F11 to F14 (R162). -/
def FaultCode.recordsPhase : FaultCode → Bool
  | .sequence | .ackOnFinalByte | .readAfterFinal | .cmdAfterSlaveNack => true
  | .clockGated | .unmapped | .badWidth | .writeToReadOnly | .readOfWriteOnly | .reservedBits | .configWhileEnabled
  | .notEnabled | .cmdWhileBusy | .illegalCommand | .tdrOverwrite | .unsupportedConfig | .disableWhileActive
  | .clockOffWhileEnabled | .pinsNotRouted | .unwrittenRead => false

end Sys2Proof.Machine
end

