-- ==== Sys2Proof/Machine/Operands.lean ====
section
/-! DEFINITION. The operands: the fields of a command word (30_encoding R89, R97, R98), the reserved bits of each
register's layout (R85 to R95), and the source of a host store (R101). -/

namespace Sys2Proof.Machine

/-- CMD.OP = v[2:0] (R89). -/
def cmdOp (v : Word) : BitVec 3 := v.extractLsb' 0 3

/-- CMD.BYTE = v[15:8] (R89, R98). -/
def cmdByte (v : Word) : Byte := v.extractLsb' 8 8

/-- A 1 in CMD's reserved bits [31:16] or [7:3] (R89). -/
def cmdReserved (v : Word) : Bool := v.extractLsb' 16 16 != 0#16 || v.extractLsb' 3 5 != 0#5

/-- The command word of an OP and a BYTE: `{16'b0, BYTE, 5'b0, OP}` (R89). -/
def cmdWord (op : BitVec 3) (b : Byte) : Word := 0#16 ++ b ++ 0#5 ++ op

/-- BYTE of ADDR: `{A7[6:0], DIR}` (R98). -/
def addrByte (a7 : BitVec 7) (dir : Direction) : Byte := a7 ++ dir.dirBit

/-- The OP codes that are commands (R97). -/
inductive CmdOp where
  | start
  | addr
  | write
  | readAck
  | readNack
  | stop
  deriving DecidableEq, Repr, Inhabited

/-- The command an OP code names; 0b000 and 0b111 are reserved (R97). -/
def cmdOpOf (op : BitVec 3) : Option CmdOp :=
  if op = 0b001#3 then some .start
  else if op = 0b010#3 then some .addr
  else if op = 0b011#3 then some .write
  else if op = 0b100#3 then some .readAck
  else if op = 0b101#3 then some .readNack
  else if op = 0b110#3 then some .stop
  else none

/-- The code of a command (R97). -/
def CmdOp.code : CmdOp → BitVec 3
  | .start => 0b001#3
  | .addr => 0b010#3
  | .write => 0b011#3
  | .readAck => 0b100#3
  | .readNack => 0b101#3
  | .stop => 0b110#3

/-- ADDR and WRITE have an operand byte; for the others BYTE must be 0x00 (R98). -/
def CmdOp.hasOperand : CmdOp → Bool
  | .addr | .write => true
  | .start | .readAck | .readNack | .stop => false

/-- The command that becomes PENDING (R116). -/
def CmdOp.command (op : CmdOp) (b : Byte) : Command :=
  match op with
  | .start => .start
  | .addr => .addr b
  | .write => .write b
  | .readAck => .readAck
  | .readNack => .readNack
  | .stop => .stop

/-- The OP of a command. -/
def Command.op : Command → CmdOp
  | .start => .start
  | .addr _ => .addr
  | .write _ => .write
  | .readAck => .readAck
  | .readNack => .readNack
  | .stop => .stop

/-- A 1 in CLKEN's reserved bits [31:2] (R85). -/
def clkenReserved (v : Word) : Bool := v.extractLsb' 2 30 != 0#30

/-- A 1 in CTRL's reserved bits [31:1] (R86, R92). -/
def ctrlReserved (v : Word) : Bool := v.extractLsb' 1 31 != 0#31

/-- A 1 in the reserved bits [31:16] of CLKDIV, BAUD and DATA (R87, R93, R95). -/
def upperReserved (v : Word) : Bool := v.extractLsb' 16 16 != 0#16

/-- A 1 in OWNADDR's reserved bits [31:7] (R88). -/
def ownaddrReserved (v : Word) : Bool := v.extractLsb' 7 25 != 0#25

/-- A 1 in FRAME's reserved bits [31:8] (R94). -/
def frameReserved (v : Word) : Bool := v.extractLsb' 8 24 != 0#24

/-- The field [15:0] of CLKDIV and BAUD (R87, R93). -/
def divField (v : Word) : BitVec 16 := v.extractLsb' 0 16

/-- The field [6:0] of OWNADDR (R88). -/
def ownaddrField (v : Word) : BitVec 7 := v.extractLsb' 0 7

/-- The field [7:0] of FRAME and DATA; DATA[15:8] is accepted and discarded (R94, R95). -/
def lowByte (v : Word) : Byte := v.extractLsb' 0 8

/-- The value of a host store's source (R101). -/
def Src.value (s : State) : Src → Word
  | .imm v => v
  | .reg r => s.host.regs[r]

end Sys2Proof.Machine
end

