-- ==== Sys2Proof/Machine/Ops.lean ====
section
/-! DEFINITION. The shared operations: recording a fault (00_scope R17 `raise`; 60_exceptions R161 to R167), the common
checks every register access passes (R164), the two traces, and the host's own registers. There is no return from a
fault (R168). -/

namespace Sys2Proof.Machine

/-- `raise Fault(Fnn)`: FAULT records the code, the access, and PHASE for F11 to F14; nothing else changes (R17, R161,
R162, R167). -/
def State.raise (c : FaultCode) (info : AccessInfo) (s : State) : State :=
  { s with
    fault := some { code := c, info := info, phase := if c.recordsPhase then some s.i2cm.phase else none } }

/-- The word access to a register, as a fault records it (R162; the address is R61's, backwards). -/
def accessInfo (r : RegName) (d : Direction) (v : Option Word) (s : State) : AccessInfo where
  addr := s.params.base r.unit + r.off.setWidth 32
  width := 4
  dir := d
  value := v

/-- The unit's clock is off; the CLK window is never gated (R105). -/
def State.gated (u : BlockUnit) (s : State) : Bool :=
  match u with
  | .clk => false
  | .i2cm => !s.clk.i2c
  | .utx => !s.clk.utx

/-- Once FAULT is set, no agent has an enabled step (R163, log 5). -/
def whileRunning (s : State) (o : Host.Outcome State Fault Refusal) : Host.Outcome State Fault Refusal :=
  match s.fault with
  | some f => .fault (.runStopped f.code)
  | none => o

/-- How a register's pseudocode ends: with the state it leaves, or with a raised fault and no other effect (R17). -/
def conclude (info : AccessInfo) (s : State) (body : Except FaultCode State) : State :=
  match body with
  | .ok t => t
  | .error c => s.raise c info

/-- An aligned word access to a register in a direction it allows: the clock check, then the register's pseudocode
(R164 items 3 and 5; the checks before them are `memAccess` and the decoder). -/
def hostAccess (r : RegName) (d : Direction) (v : Option Word) (body : Except FaultCode State) (s : State) :
    Host.Outcome State Fault Refusal :=
  whileRunning s
    (.next (if s.gated r.unit then s.raise .clockGated (accessInfo r d v s) else conclude (accessInfo r d v s) s body))

/-- A read: its result goes back to the host, and nothing else changes (R67). -/
def hostRead (r : RegName) (result : Except FaultCode Word) (s : State) : Host.Outcome State Fault Refusal :=
  hostAccess r .read none (result.map fun w => { s with readData := w }) s

/-- A write of v, whose register's pseudocode is `body` (R68). -/
def hostWrite (r : RegName) (v : Word) (body : Except FaultCode State) (s : State) :
    Host.Outcome State Fault Refusal :=
  hostAccess r .write (some v) body s

/-- `emit_bus(e)`: BUS_TRACE gains e at its end (R17, R34). -/
def I2cmState.emit (e : BusEvent) (m : I2cmState) : I2cmState := { m with busTrace := m.busTrace ++ [e] }

/-- `emit_line(b)`: LINE_TRACE gains b at its end (R17, R41). -/
def UtxState.emit (b : Byte) (u : UtxState) : UtxState := { u with lineTrace := u.lineTrace ++ [b] }

/-- The free values of the next step are taken (log 2): every step of the machine ends so. -/
def State.refresh (s : State) : State := { s with choice := Config.choice s.tick, tick := s.tick + 1 }

/-- A host register's value (R101). -/
def State.getReg (r : Reg) (s : State) : Word := s.host.regs[r]

/-- `rd <- v` (R101). -/
def State.setReg (rd : Reg) (v : Word) (s : State) : State :=
  { s with host := { s.host with regs := s.host.regs.set rd v } }

/-- `pc <- target` (R17). -/
def State.jump (target : Nat) (s : State) : State := { s with host := { s.host with pc := target } }

/-- The host's program counter goes to the next operation. -/
def State.advancePc (s : State) : State := s.jump (s.host.pc + 1)

end Sys2Proof.Machine
end

