-- ==== Sys2Proof/Machine/Engine.lean ====
section
/-! DEFINITION. ENGINE: the completion of the pending command (42_i2c_commands R118 to R125). SLAVE's answers `a` and `d`
are free values that the step hands over. -/

namespace Sys2Proof.Machine

/-- START's completion (R118). -/
def completeStart (m : I2cmState) : I2cmState :=
  { m.emit .start with phase := .started, ack := false, nackf := false }

/-- ADDR's completion (R119). -/
def completeAddr (b : Byte) (a : Bool) (m : I2cmState) : I2cmState :=
  { m.emit (.byteOut b a) with
    ack := a
    nackf := nackfAfter a m.nackf
    phase := if b.getLsbD 0 then .addrR else .addrW }

/-- WRITE's completion (R120). -/
def completeWrite (d : Byte) (a : Bool) (m : I2cmState) : I2cmState :=
  { m.emit (.byteOut d a) with ack := a, nackf := nackfAfter a m.nackf, phase := .dataW }

/-- READ_ACK's completion (R121). -/
def completeReadAck (d : Byte) (m : I2cmState) : I2cmState :=
  { m.emit (.byteIn d true) with rxdata := some d, ack := true, phase := .dataR }

/-- READ_NACK's completion (R122). -/
def completeReadNack (d : Byte) (m : I2cmState) : I2cmState :=
  { m.emit (.byteIn d false) with rxdata := some d, ack := false, phase := .dataRLast }

/-- STOP's completion (R123). -/
def completeStop (m : I2cmState) : I2cmState :=
  { m.emit .stop with phase := .stopped }

/-- The completion pseudocode of a command (R124 item 2). -/
def completeCommand (c : Command) (a : Bool) (d : Byte) (m : I2cmState) : I2cmState :=
  match c with
  | .start => completeStart m
  | .addr b => completeAddr b a m
  | .write b => completeWrite b a m
  | .readAck => completeReadAck d m
  | .readNack => completeReadNack d m
  | .stop => completeStop m

/-- R124's one atomic step: the command completes, PENDING becomes none and BUSY 0. -/
def completion (c : Command) (a : Bool) (d : Byte) (m : I2cmState) : I2cmState :=
  { completeCommand c a d m with pending := none, busy := false }

/-- ENGINE's turn (R124, R125): its step when BUSY = 1 and SLAVE releases the bus, else nothing. A state with BUSY = 1
and no pending command is unreachable (R44 item 1); ENGINE then has no command to take (log 23). -/
def engineStep (s : State) : State :=
  match s.i2cm.busy && s.choice.release, s.i2cm.pending with
  | true, some c => { s with i2cm := completion c s.choice.ack s.choice.byte s.i2cm }
  | true, none => s
  | false, _ => s

end Sys2Proof.Machine
end

