-- ==== Sys2Proof/Machine/Clk.lean ====
section
/-! DEFINITION. The CLK unit's instructions (40_clock_control R103, R104). -/

namespace Sys2Proof.Machine

/-- R104's pseudocode. -/
def clkenWrite (v : Word) (s : State) : Except FaultCode State :=
  if clkenReserved v then .error .reservedBits
  else if !v.getLsbD 0 && s.i2cm.en then .error .clockOffWhileEnabled
  else if !v.getLsbD 1 && s.utx.en then .error .clockOffWhileEnabled
  else .ok { s with clk := { i2c := v.getLsbD 0, utx := v.getLsbD 1 } }

/-- `ld CLK.CLKEN` (R103). -/
def execLdClkClken (s : State) : Host.Outcome State Fault Refusal :=
  hostRead .clkClken (.ok (clkenWord s.clk)) s

/-- `st CLK.CLKEN, v` (R104). -/
def execStClkClken (v : Word) (s : State) : Host.Outcome State Fault Refusal :=
  hostWrite .clkClken v (clkenWrite v s) s

end Sys2Proof.Machine
end

