-- ==== Sys2Proof/Machine/I2cCommands.lean ====
section
/-! DEFINITION. Command issue and the legality function (42_i2c_commands R115 to R117), and the instructions of the CMD
format, each the write of its word to I2CM.CMD (30_encoding R80, R101). Completion is ENGINE's (Engine.lean). -/

namespace Sys2Proof.Machine

/-- `ok` when the condition holds, else the fault. -/
def okIf (b : Bool) (c : FaultCode) : Option FaultCode := if b then none else some c

/-- R117's legality function: none is `ok`. -/
def legal (phase : Phase) (nackf : Bool) (op : CmdOp) : Option FaultCode :=
  if nackf && phase.nackSensitive then okIf (op == .stop) .cmdAfterSlaveNack
  else
    match op with
    | .start => okIf phase.atRest .sequence
    | .addr => okIf (phase == .started) .sequence
    | .write => okIf (phase == .addrW || phase == .dataW) .sequence
    | .readAck | .readNack =>
      if phase == .addrR || phase == .dataR then none
      else if phase == .dataRLast then some .readAfterFinal
      else some .sequence
    | .stop =>
      if phase == .addrW || phase == .dataW || phase == .dataRLast then none
      else if phase == .dataR then some .ackOnFinalByte
      else some .sequence

/-- A command is accepted: PENDING holds it and BUSY is set; nothing else changes at issue (R116). -/
def accept (c : Command) (s : State) : State :=
  { s with i2cm := { s.i2cm with pending := some c, busy := true } }

/-- R116's pseudocode, in the order R164 fixes: F06 (layout), F08, F09, F10, F06 (BYTE), F11 to F14. -/
def cmdIssue (v : Word) (s : State) : Except FaultCode State :=
  if cmdReserved v then .error .reservedBits
  else if s.i2cm.en = false then .error .notEnabled
  else if s.i2cm.busy then .error .cmdWhileBusy
  else
    match cmdOpOf (cmdOp v) with
    | none => .error .illegalCommand
    | some op =>
      if !op.hasOperand && cmdByte v != 0#8 then .error .reservedBits
      else
        match legal s.i2cm.phase s.i2cm.nackf op with
        | some c => .error c
        | none => .ok (accept (op.command (cmdByte v)) s)

/-- A write of v to I2CM.CMD (R116). -/
def commandWrite (v : Word) (s : State) : Host.Outcome State Fault Refusal :=
  hostWrite .i2cmCmd v (cmdIssue v s) s

/-- `st I2CM.CMD, v` (R116). -/
def execStI2cmCmd (v : Word) (s : State) : Host.Outcome State Fault Refusal :=
  commandWrite v s

/-- `i2c.start` (R118): CMD 0x0000_0001. -/
def execI2cStart (s : State) : Host.Outcome State Fault Refusal :=
  commandWrite (cmdWord CmdOp.start.code 0x00#8) s

/-- `i2c.addr A7, DIR` (R119): CMD 0x0000_bb02 with bb = {A7, DIR}. -/
def execI2cAddr (a7 : BitVec 7) (dir : Direction) (s : State) : Host.Outcome State Fault Refusal :=
  commandWrite (cmdWord CmdOp.addr.code (addrByte a7 dir)) s

/-- `i2c.write #b` (R120): CMD 0x0000_bb03. -/
def execI2cWrite (b : Byte) (s : State) : Host.Outcome State Fault Refusal :=
  commandWrite (cmdWord CmdOp.write.code b) s

/-- `i2c.read_ack` (R121): CMD 0x0000_0004. -/
def execI2cReadAck (s : State) : Host.Outcome State Fault Refusal :=
  commandWrite (cmdWord CmdOp.readAck.code 0x00#8) s

/-- `i2c.read_nack` (R122): CMD 0x0000_0005. -/
def execI2cReadNack (s : State) : Host.Outcome State Fault Refusal :=
  commandWrite (cmdWord CmdOp.readNack.code 0x00#8) s

/-- `i2c.stop` (R123): CMD 0x0000_0006. -/
def execI2cStop (s : State) : Host.Outcome State Fault Refusal :=
  commandWrite (cmdWord CmdOp.stop.code 0x00#8) s

/-- A command word with OP 0b000 (R97, R116): F10 unless a check before it raises another fault. -/
def execReservedOp0 (rest : BitVec 29) (s : State) : Host.Outcome State Fault Refusal :=
  commandWrite (rest ++ 0b000#3) s

/-- A command word with OP 0b111 (R97, R116): F10 unless a check before it raises another fault. -/
def execReservedOp7 (rest : BitVec 29) (s : State) : Host.Outcome State Fault Refusal :=
  commandWrite (rest ++ 0b111#3) s

end Sys2Proof.Machine
end

