-- ==== Sys2Proof/Machine/I2cConfig.lean ====
section
/-! DEFINITION. I2CM's configuration and status registers (41_i2c_config R106 to R114). -/

namespace Sys2Proof.Machine

/-- R107's pseudocode. -/
def i2cmCtrlWrite (v : Word) (s : State) : Except FaultCode State :=
  if ctrlReserved v then .error .reservedBits
  else
    match s.i2cm.en, v.getLsbD 0 with
    | false, true =>
      if s.i2cm.clkdiv = 0#16 then .error .unsupportedConfig
      else if s.params.pinsRoutedI2c = false then .error .pinsNotRouted
      else .ok { s with i2cm := { s.i2cm with en := true, phase := .idle, ack := false, nackf := false } }
    | true, false =>
      if s.i2cm.busy || !s.i2cm.phase.atRest then .error .disableWhileActive
      else .ok { s with i2cm := { s.i2cm with en := false } }
    | false, false => .ok s
    | true, true => .ok s

/-- R109's pseudocode. -/
def i2cmClkdivWrite (v : Word) (s : State) : Except FaultCode State :=
  if upperReserved v then .error .reservedBits
  else if s.i2cm.en then .error .configWhileEnabled
  else .ok { s with i2cm := { s.i2cm with clkdiv := divField v } }

/-- R112's pseudocode. -/
def i2cmOwnaddrWrite (v : Word) (s : State) : Except FaultCode State :=
  if ownaddrReserved v then .error .reservedBits
  else if s.i2cm.en then .error .configWhileEnabled
  else .ok { s with i2cm := { s.i2cm with ownaddr := ownaddrField v } }

/-- R114's pseudocode: F20 while RXDATA is unwritten. -/
def i2cmRxdataRead (s : State) : Except FaultCode Word :=
  match s.i2cm.rxdata with
  | none => .error .unwrittenRead
  | some b => .ok (b.setWidth 32)

/-- `ld I2CM.CTRL` (R106). -/
def execLdI2cmCtrl (s : State) : Host.Outcome State Fault Refusal :=
  hostRead .i2cmCtrl (.ok (enableWord s.i2cm.en)) s

/-- `st I2CM.CTRL, v` (R107). -/
def execStI2cmCtrl (v : Word) (s : State) : Host.Outcome State Fault Refusal :=
  hostWrite .i2cmCtrl v (i2cmCtrlWrite v s) s

/-- `ld I2CM.CLKDIV` (R108). -/
def execLdI2cmClkdiv (s : State) : Host.Outcome State Fault Refusal :=
  hostRead .i2cmClkdiv (.ok (s.i2cm.clkdiv.setWidth 32)) s

/-- `st I2CM.CLKDIV, v` (R109). -/
def execStI2cmClkdiv (v : Word) (s : State) : Host.Outcome State Fault Refusal :=
  hostWrite .i2cmClkdiv v (i2cmClkdivWrite v s) s

/-- `ld I2CM.OWNADDR` (R111). -/
def execLdI2cmOwnaddr (s : State) : Host.Outcome State Fault Refusal :=
  hostRead .i2cmOwnaddr (.ok (s.i2cm.ownaddr.setWidth 32)) s

/-- `st I2CM.OWNADDR, v` (R112). -/
def execStI2cmOwnaddr (v : Word) (s : State) : Host.Outcome State Fault Refusal :=
  hostWrite .i2cmOwnaddr v (i2cmOwnaddrWrite v s) s

/-- `ld I2CM.STATUS` (R113). -/
def execLdI2cmStatus (s : State) : Host.Outcome State Fault Refusal :=
  hostRead .i2cmStatus (.ok (i2cmStatusWord s.i2cm)) s

/-- `ld I2CM.RXDATA` (R114). -/
def execLdI2cmRxdata (s : State) : Host.Outcome State Fault Refusal :=
  hostRead .i2cmRxdata (i2cmRxdataRead s) s

end Sys2Proof.Machine
end

