-- ==== Sys2Proof/Machine/Utx.lean ====
section
/-! DEFINITION. UTX's registers (43_uart_tx R129 to R137). The transmitter's own steps are in Tx.lean. -/

namespace Sys2Proof.Machine

/-- R130's pseudocode. -/
def utxCtrlWrite (v : Word) (s : State) : Except FaultCode State :=
  if ctrlReserved v then .error .reservedBits
  else
    match s.utx.en, v.getLsbD 0 with
    | false, true =>
      if s.utx.baud = 0#16 then .error .unsupportedConfig
      else if s.params.pinsRoutedUtx = false then .error .pinsNotRouted
      else .ok { s with utx := { s.utx with en := true } }
    | true, false =>
      if s.utx.tdr.isSome || s.utx.shift.isSome then .error .disableWhileActive
      else .ok { s with utx := { s.utx with en := false } }
    | false, false => .ok s
    | true, true => .ok s

/-- R132's pseudocode. -/
def utxBaudWrite (v : Word) (s : State) : Except FaultCode State :=
  if upperReserved v then .error .reservedBits
  else if s.utx.en then .error .configWhileEnabled
  else .ok { s with utx := { s.utx with baud := divField v } }

/-- R135's pseudocode. -/
def utxFrameWrite (v : Word) (s : State) : Except FaultCode State :=
  if frameReserved v then .error .reservedBits
  else if s.utx.en then .error .configWhileEnabled
  else if lowByte v ≠ 0x08#8 then .error .unsupportedConfig
  else .ok { s with utx := { s.utx with frame := 0x08#8 } }

/-- R136's pseudocode. -/
def utxDataWrite (v : Word) (s : State) : Except FaultCode State :=
  if upperReserved v then .error .reservedBits
  else if s.utx.en = false then .error .notEnabled
  else if s.utx.tdr.isSome then .error .tdrOverwrite
  else .ok { s with utx := { s.utx with tdr := some (lowByte v), tc := false } }

/-- `ld UTX.CTRL` (R129). -/
def execLdUtxCtrl (s : State) : Host.Outcome State Fault Refusal :=
  hostRead .utxCtrl (.ok (enableWord s.utx.en)) s

/-- `st UTX.CTRL, v` (R130). -/
def execStUtxCtrl (v : Word) (s : State) : Host.Outcome State Fault Refusal :=
  hostWrite .utxCtrl v (utxCtrlWrite v s) s

/-- `ld UTX.BAUD` (R131). -/
def execLdUtxBaud (s : State) : Host.Outcome State Fault Refusal :=
  hostRead .utxBaud (.ok (s.utx.baud.setWidth 32)) s

/-- `st UTX.BAUD, v` (R132). -/
def execStUtxBaud (v : Word) (s : State) : Host.Outcome State Fault Refusal :=
  hostWrite .utxBaud v (utxBaudWrite v s) s

/-- `ld UTX.FRAME` (R134). -/
def execLdUtxFrame (s : State) : Host.Outcome State Fault Refusal :=
  hostRead .utxFrame (.ok (s.utx.frame.setWidth 32)) s

/-- `st UTX.FRAME, v` (R135). -/
def execStUtxFrame (v : Word) (s : State) : Host.Outcome State Fault Refusal :=
  hostWrite .utxFrame v (utxFrameWrite v s) s

/-- `st UTX.DATA, v`, `uart.data v` (R136). -/
def execStUtxData (v : Word) (s : State) : Host.Outcome State Fault Refusal :=
  hostWrite .utxData v (utxDataWrite v s) s

/-- `ld UTX.STATUS` (R137). -/
def execLdUtxStatus (s : State) : Host.Outcome State Fault Refusal :=
  hostRead .utxStatus (.ok (utxStatusWord s.utx)) s

end Sys2Proof.Machine
end

