-- ==== Sys2Proof/Machine/Dispatch.lean ====
section
/-! DEFINITION. The meaning of every instruction: one arm per constructor of Instr. -/

namespace Sys2Proof.Machine

def exec (i : Instr) (s : State) : Host.Outcome State Fault Refusal :=
  match i with
  | .ldClkClken => Sys2Proof.Machine.execLdClkClken s
  | .stClkClken v => Sys2Proof.Machine.execStClkClken v s
  | .ldI2cmCtrl => Sys2Proof.Machine.execLdI2cmCtrl s
  | .stI2cmCtrl v => Sys2Proof.Machine.execStI2cmCtrl v s
  | .ldI2cmClkdiv => Sys2Proof.Machine.execLdI2cmClkdiv s
  | .stI2cmClkdiv v => Sys2Proof.Machine.execStI2cmClkdiv v s
  | .ldI2cmOwnaddr => Sys2Proof.Machine.execLdI2cmOwnaddr s
  | .stI2cmOwnaddr v => Sys2Proof.Machine.execStI2cmOwnaddr v s
  | .stI2cmCmd v => Sys2Proof.Machine.execStI2cmCmd v s
  | .ldI2cmStatus => Sys2Proof.Machine.execLdI2cmStatus s
  | .ldI2cmRxdata => Sys2Proof.Machine.execLdI2cmRxdata s
  | .ldUtxCtrl => Sys2Proof.Machine.execLdUtxCtrl s
  | .stUtxCtrl v => Sys2Proof.Machine.execStUtxCtrl v s
  | .ldUtxBaud => Sys2Proof.Machine.execLdUtxBaud s
  | .stUtxBaud v => Sys2Proof.Machine.execStUtxBaud v s
  | .ldUtxFrame => Sys2Proof.Machine.execLdUtxFrame s
  | .stUtxFrame v => Sys2Proof.Machine.execStUtxFrame v s
  | .stUtxData v => Sys2Proof.Machine.execStUtxData v s
  | .ldUtxStatus => Sys2Proof.Machine.execLdUtxStatus s
  | .i2cStart => Sys2Proof.Machine.execI2cStart s
  | .i2cAddr a7 dir => Sys2Proof.Machine.execI2cAddr a7 dir s
  | .i2cWrite b => Sys2Proof.Machine.execI2cWrite b s
  | .i2cReadAck => Sys2Proof.Machine.execI2cReadAck s
  | .i2cReadNack => Sys2Proof.Machine.execI2cReadNack s
  | .i2cStop => Sys2Proof.Machine.execI2cStop s
  | .reservedOp0 rest => Sys2Proof.Machine.execReservedOp0 rest s
  | .reservedOp7 rest => Sys2Proof.Machine.execReservedOp7 rest s

end Sys2Proof.Machine
end

