-- ==== Sys2Proof/Machine/Access.lean ====
section
/-! DEFINITION. A host access on its way to a register: MemRead and MemWrite (00_scope R17; 20_memory R60 to R65), the
common checks before the register's pseudocode (60_exceptions R164), and what is refused because it decodes to no
instruction (30_encoding R99). -/

namespace Sys2Proof.Machine

/-- The value a fault records: the written word, none for a read (R162). -/
def recordedValue (d : Direction) (v : Word) : Option Word :=
  match d with
  | .write => some v
  | .read => none

/-- Bits that decode to no instruction (R65, R99, R164). An offset with no register raises F02, before the clock is
looked at; a wrong direction passes the clock check and then raises F04 or F05. A CMD word that is no command is still a
write to I2CM.CMD, whose own checks fault it (R116). DESIGN CHOICE: a descriptor with an unaligned OFF, which no access
forms either (R81), also raises F02 at its offset, since an unaligned offset holds no register (R82 to R84; log 28). -/
def refuseEncoding (e : Encoded) (err : DecodeError) (s : State) : Host.Outcome State Fault Refusal :=
  match e with
  | .cmd w => commandWrite w s
  | .acc desc v =>
    match err with
    | .unmapped u off =>
      whileRunning s
        (.next (s.raise .unmapped
          { addr := s.params.base u + off.setWidth 32, width := 4, dir := accDirection desc,
            value := recordedValue (accDirection desc) v }))
    | .writeToReadOnly r => hostAccess r .write (some v) (.error .writeToReadOnly) s
    | .readOfWriteOnly r => hostAccess r .read none (.error .readOfWriteOnly) s
    | .notThisBlock | .nonzeroField | .reservedBits | .operandByte =>
      whileRunning s (.refused .descriptorNeverFormed)

/-- An access in encoded form: decoded, and run. -/
def performAccess (e : Encoded) (s : State) : Host.Outcome State Fault Refusal :=
  match decode e with
  | .ok i => exec i s
  | .error err => refuseEncoding e err s

/-- An access whose width is not 4 or whose address is no multiple of 4 (R64). -/
def badWidth (addr : Word) (n : Nat) : Bool := n != 4 || addr.extractLsb' 0 2 != 0#2

/-- `MemRead(addr, n)` and `MemWrite(addr, n, v)` (R17): an access outside the three windows is refused, since it is no
access to this block (R60; log 9); then F03; then the descriptor is formed (R81) and the access made. -/
def memAccess (addr : Word) (n : Nat) (d : Direction) (v : Word) (s : State) : Host.Outcome State Fault Refusal :=
  match decodeAddr s.params addr with
  | none => whileRunning s (.refused .outsideWindows)
  | some (u, off) =>
    if badWidth addr n then
      whileRunning s (.next (s.raise .badWidth { addr := addr, width := n, dir := d, value := recordedValue d v }))
    else performAccess (.acc (accDesc u d off) v) s

end Sys2Proof.Machine
end

