-- ==== Sys2Proof/Machine/HostAgent.lean ====
section
/-! DEFINITION. HOST: one operation of the host program (30_encoding R101; 00_scope R17, R18), and placing an
instruction where the host comes to it next. -/

namespace Sys2Proof.Machine

/-- How a host operation goes on after its access: with its own part (`rd <- result`) and the next operation; not at all
if the access raised a fault, since no agent takes another step (R163; log 13). -/
def afterAccess (own : State → State) (o : Host.Outcome State Fault Refusal) : Host.Outcome State Fault Refusal :=
  match o with
  | .next t => .next (if t.fault.isSome then t.refresh else (own t).advancePc.refresh)
  | .fault r => .fault r
  | .refused r => .refused r

/-- `rd <- result` of a read (R101). -/
def takeResult (rd : Reg) (t : State) : State := t.setReg rd t.readData

/-- A write has no result. -/
def noResult (t : State) : State := t

/-- `rd <- v`, and on to the next operation: the host's own arithmetic (R101). -/
def hostCompute (rd : Reg) (v : Word) (s : State) : Host.Outcome State Fault Refusal :=
  .next (s.setReg rd v).advancePc.refresh

/-- `if c then pc <- target`, else on to the next operation (R101). -/
def hostBranch (c : Bool) (target : Nat) (s : State) : Host.Outcome State Fault Refusal :=
  .next (if c then s.jump target else s.advancePc).refresh

/-- One host operation (R101). DESIGN CHOICE: `dec` of a register that holds 0 wraps to 0xFFFF_FFFF (log 26). -/
def hostOpStep (op : HostOp) (s : State) : Host.Outcome State Fault Refusal :=
  match op with
  | .memRead rd addr n => afterAccess (takeResult rd) (memAccess addr n .read 0#32 s)
  | .memWrite addr n src => afterAccess noResult (memAccess addr n .write (src.value s) s)
  | .ld rd r => afterAccess (takeResult rd) (performAccess (.acc (accDesc r.unit .read r.off) 0#32) s)
  | .st r src => afterAccess noResult (performAccess (.acc (accDesc r.unit .write r.off) (src.value s)) s)
  | .encoded e => afterAccess noResult (performAccess e s)
  | .mov rd imm => hostCompute rd imm s
  | .shl rd rs n => hostCompute rd (s.getReg rs <<< n) s
  | .shr rd rs n => hostCompute rd (s.getReg rs >>> n) s
  | .or rd rs rt => hostCompute rd (s.getReg rs ||| s.getReg rt) s
  | .and rd rs imm => hostCompute rd (s.getReg rs &&& imm) s
  | .dec rd => hostCompute rd (s.getReg rd - 1#32) s
  | .bnz rd target => hostBranch (s.getReg rd != 0#32) target s
  | .bne rs val target => hostBranch (s.getReg rs != val) target s
  | .b target => hostBranch true target s

/-- HOST's turn: the operation its program counter points to; nothing at the end of the program (R18, R189). -/
def hostStep (s : State) : Host.Outcome State Fault Refusal :=
  match s.host.program[s.host.pc]? with
  | none => .next s.refresh
  | some op => hostOpStep op s

/-- A program with `op` at index k; a program shorter than k is filled up with `op` (log 7). -/
def placeOp (op : HostOp) (k : Nat) (program : List HostOp) : List HostOp :=
  program.take k ++ List.replicate (k - program.length) op ++ [op] ++ program.drop (k + 1)

/-- The host comes to `op` next, and HOST moves next (log 7). -/
def placeNext (op : HostOp) (s : State) : State :=
  { s with
    host := { s.host with program := placeOp op s.host.pc s.host.program }
    choice := { s.choice with turn := .host } }

end Sys2Proof.Machine
end

