-- ==== Sys2Proof/Machine/Tx.lean ====
section
/-! DEFINITION. TX: the transmitter's load step and shift-out step (43_uart_tx R138, R139). -/

namespace Sys2Proof.Machine

/-- The load step (R138): TDR's byte moves into SHIFT. -/
def txLoad (x : Byte) (u : UtxState) : UtxState := { u with shift := some x, tdr := none }

/-- The shift-out step (R139): SHIFT's byte goes out on the line. -/
def txShiftOut (x : Byte) (u : UtxState) : UtxState :=
  { u.emit x with shift := none, tc := tcAfterShiftOut u }

/-- TX's turn: the one of its two steps that is enabled, else nothing (R138, R139). -/
def txUnitStep (u : UtxState) : UtxState :=
  match u.shift, u.tdr with
  | some x, _ => txShiftOut x u
  | none, some x => if u.en then txLoad x u else u
  | none, none => u

/-- TX's turn, in the machine. -/
def txStep (s : State) : State := { s with utx := txUnitStep s.utx }

end Sys2Proof.Machine
end

