-- ==== Sys2Proof/Machine/Agents.lean ====
section
/-! DEFINITION. One step of the machine is one step of the agent whose turn it is (00_scope R4, R18; 60_exceptions R163,
R165). -/

namespace Sys2Proof.Machine

/-- A step of the agent whose turn it is; a step that is not enabled changes nothing but the turn (R18; log 2). No agent
moves once FAULT is set (R163). -/
def agentStep (s : State) : Host.Outcome State Fault Refusal :=
  whileRunning s
    (match s.choice.turn with
    | .host => hostStep s
    | .engine => .next (engineStep s).refresh
    | .tx => .next (txStep s).refresh)

end Sys2Proof.Machine
end

