-- ==== Sys2Proof/Machine/Step.lean ====
section
/-! DEFINITION. The step of the machine, and an instruction placed where the host fetches its next operation. -/

namespace Sys2Proof.Machine

/-- One step (R4, R18). -/
def step (s : State) : Host.Outcome State Fault Refusal := agentStep s

/-- `s` with the instruction of the opcode table's bits placed as the host's next operation, and HOST to move (log 7). -/
def State.withFetchWord (s : State) (nbits w : Nat) : State :=
  placeNext (.encoded (encodedOfTableWord nbits w)) s

end Sys2Proof.Machine
end

