-- ==== Sys2Proof/WellFormed.lean ====
section
/-! DEFINITION. What must hold of the launch parameters (00_scope R5 to R19) and of a selector a host program names
(R152). An instruction needs no check: each operand of `Instr` has exactly the width its encoding gives it. -/

namespace Sys2Proof

/-- R10: a window base is a multiple of 256. -/
def windowAligned (base : Word) : Bool := base.extractLsb' 0 8 == 0#8

/-- R10: two 256-byte windows at multiples of 256 do not overlap. -/
def windowsApart (a b : Word) : Bool := a.extractLsb' 8 24 != b.extractLsb' 8 24

/-- R10, for the three windows. -/
def Params.basesWf (p : Params) : Bool :=
  windowAligned p.clkBase && windowAligned p.i2cmBase && windowAligned p.utxBase &&
  windowsApart p.clkBase p.i2cmBase && windowsApart p.clkBase p.utxBase && windowsApart p.i2cmBase p.utxBase

/-- What R5, R6, R7, R9, R10, R14 and R19 ask of the parameters. -/
def Params.wf (p : Params) : Bool :=
  decide (1 ≤ p.fPclk) && decide (1 ≤ p.fSclTarget) && decide (1 ≤ p.baudRate) &&
  (p.selTemp != selPres) && p.basesWf && decide (1 ≤ p.delaySpin) && !p.pollSels.isEmpty

/-- The two divisors that `init` stores fit the 32 bits of `#imm32` (R101, R155; log 21). -/
def Params.divisorsFit (p : Params) : Bool :=
  decide (p.fPclk / p.fSclTarget < 2 ^ 32) && decide (p.fPclk / p.baudRate < 2 ^ 32)

/-- The spin count that `pollLoop` moves into a host register fits its 32 bits (R14, R101, R157; log 21). -/
def Params.delayFits (p : Params) : Bool := decide (p.delaySpin < 2 ^ 32)

/-- The byte a selector stands for (R9). -/
def Selector.byte (p : Params) : Selector → Byte
  | .temp => p.selTemp
  | .pres => selPres

/-- Transcription of a selector byte: any value but SEL_TEMP and SEL_PRES is refused (R152). -/
def Selector.ofByte (p : Params) (b : Byte) : Option Selector :=
  if b = selPres then some .pres
  else if b = p.selTemp then some .temp
  else none

end Sys2Proof
end

