-- ==== Sys2Proof/Machine/HostSequences.lean ====
section
/-! DEFINITION. The host assembly's short forms (30_encoding R101) and the pseudo-instructions (44_host_sequences R144 to
R157), as expansions into host operations. A piece of code is a function of the index it is placed at. -/

namespace Sys2Proof.Machine

/-- `rt`, the scratch register of `wait` (R101). DESIGN CHOICE: r7 (log 14). -/
def scratchRt : Reg := 7

/-- `rh` and `rl` of readRegister (R150), as in program P2 of 95_test_vectors. -/
def scratchRh : Reg := 2

/-- See `scratchRh`. -/
def scratchRl : Reg := 3

/-- A scratch register beside an operand: the usual one, or r6 where the operand is the usual one (log 14). -/
def scratchBeside (usual rs : Reg) : Reg := if rs = usual then 6 else usual

/-- `rt` of the waits of `send rs` (R101, R153; log 14). -/
def sendRt (rs : Reg) : Reg := scratchBeside scratchRt rs

/-- `rh` of `send rs` (R153): r4, as in program P3 of 95_test_vectors, unless rs is r4 (log 14). -/
def sendRh (rs : Reg) : Reg := scratchBeside 4 rs

/-- `rl` of `send rs` (R153): r5, as in program P3 of 95_test_vectors, unless rs is r5 (log 14). -/
def sendRl (rs : Reg) : Reg := scratchBeside 5 rs

/-- The register that carries a sample through the poll loop (R157). -/
def pollValue : Reg := 0

/-- The register of the poll loop's delay (R157). -/
def pollDelay : Reg := 1

/-- One operation, wherever it stands. -/
def op1 (o : HostOp) (_at : Nat) : List HostOp := [o]

/-- The pieces of a list, one behind the other. -/
def codeSeq : List (Nat → List HostOp) → Nat → List HostOp
  | [], _ => []
  | c :: cs, pos => c pos ++ codeSeq cs (pos + (c pos).length)

/-- `i2c.start` (R101). -/
def opStart : HostOp := .encoded (.cmd (cmdWord CmdOp.start.code 0x00#8))

/-- `i2c.addr A7, DIR` (R101). -/
def opAddr (a7 : BitVec 7) (dir : Direction) : HostOp := .encoded (.cmd (cmdWord CmdOp.addr.code (addrByte a7 dir)))

/-- `i2c.write #b` (R101). -/
def opWrite (b : Byte) : HostOp := .encoded (.cmd (cmdWord CmdOp.write.code b))

/-- `i2c.read_ack` (R101). -/
def opReadAck : HostOp := .encoded (.cmd (cmdWord CmdOp.readAck.code 0x00#8))

/-- `i2c.read_nack` (R101). -/
def opReadNack : HostOp := .encoded (.cmd (cmdWord CmdOp.readNack.code 0x00#8))

/-- `i2c.stop` (R101). -/
def opStop : HostOp := .encoded (.cmd (cmdWord CmdOp.stop.code 0x00#8))

/-- `uart.data src` (R101). -/
def opUartData (src : Src) : HostOp := .st .utxData src

/-- `wait U.REG, #mask, #val` (R101): `L: ld rt, U.REG; rt <- rt AND mask; if rt != val then pc <- L`. -/
def waitFor (rt : Reg) (r : RegName) (mask val : Word) (pos : Nat) : List HostOp :=
  [.ld rt r, .and rt rt mask, .bne rt val pos]

/-- `i2c.cmd_wait` (R144). -/
def cmdWaitCode : Nat → List HostOp := waitFor scratchRt .i2cmStatus 0x1#32 0x0#32

/-- `beginTransaction dir` (R145). -/
def beginTransactionCode (p : Params) (dir : Direction) : Nat → List HostOp :=
  codeSeq [op1 opStart, cmdWaitCode, op1 (opAddr p.slaveAddr7 dir), cmdWaitCode]

/-- `busWrite #b` (R146). -/
def busWriteCode (b : Byte) : Nat → List HostOp := codeSeq [op1 (opWrite b), cmdWaitCode]

/-- `busRead rd, last` (R147). -/
def busReadCode (rd : Reg) (last : Bool) : Nat → List HostOp :=
  codeSeq [op1 (if last then opReadNack else opReadAck), cmdWaitCode, op1 (.ld rd .i2cmRxdata)]

/-- `endTransaction` (R148). -/
def endTransactionCode : Nat → List HostOp := codeSeq [op1 opStop, cmdWaitCode]

/-- `readRegister rd, #sel` (R150, R151). -/
def readRegisterCode (p : Params) (rd : Reg) (sel : Selector) : Nat → List HostOp :=
  codeSeq
    [beginTransactionCode p .write, busWriteCode (sel.byte p), endTransactionCode,
     beginTransactionCode p .read, busReadCode scratchRh false, busReadCode scratchRl true, endTransactionCode,
     op1 (.shl scratchRh scratchRh 8), op1 (.or rd scratchRh scratchRl)]

/-- Wait for TXE = 1 (R153). -/
def waitTxe (rt : Reg) : Nat → List HostOp := waitFor rt .utxStatus 0x1#32 0x1#32

/-- Wait for TC = 1 (R153). -/
def waitTc (rt : Reg) : Nat → List HostOp := waitFor rt .utxStatus 0x2#32 0x2#32

/-- `send rs` in the mode TRUNCATE or SPLIT_MSB_FIRST (R153). -/
def sendCode (mode : SendMode) (rs : Reg) : Nat → List HostOp :=
  match mode with
  | .truncate => codeSeq [waitTxe (sendRt rs), op1 (opUartData (.reg rs)), waitTc (sendRt rs)]
  | .splitMsbFirst =>
    codeSeq
      [op1 (.shr (sendRh rs) rs 8), op1 (.and (sendRh rs) (sendRh rs) 0xFF#32), op1 (.and (sendRl rs) rs 0xFF#32),
       waitTxe (sendRt rs), op1 (opUartData (.reg (sendRh rs))), waitTc (sendRt rs),
       waitTxe (sendRt rs), op1 (opUartData (.reg (sendRl rs))), waitTc (sendRt rs)]

/-- The value the host must write to CLKDIV: F_PCLK / F_SCL_TARGET (R110). -/
def clkdivValue (p : Params) : Word := BitVec.ofNat 32 (p.fPclk / p.fSclTarget)

/-- The value the host must write to BAUD: F_PCLK / BAUD_RATE (R133). -/
def baudValue (p : Params) : Word := BitVec.ofNat 32 (p.fPclk / p.baudRate)

/-- `init` (R155): nine writes; the order meets R180. -/
def initOps (p : Params) : List HostOp :=
  [.st .clkClken (.imm 0x3#32),
   .st .i2cmCtrl (.imm 0x0#32),
   .st .i2cmClkdiv (.imm (clkdivValue p)),
   .st .i2cmOwnaddr (.imm (p.ownAddr7.setWidth 32)),
   .st .i2cmCtrl (.imm 0x1#32),
   .st .utxCtrl (.imm 0x0#32),
   .st .utxBaud (.imm (baudValue p)),
   .st .utxFrame (.imm 0x08#32),
   .st .utxCtrl (.imm 0x1#32)]

/-- One selector's part of a poll cycle (R157). -/
def pollOne (p : Params) (sel : Selector) : Nat → List HostOp :=
  codeSeq [readRegisterCode p pollValue sel, sendCode p.sendMode pollValue]

/-- The delay of a poll cycle (R157): `mov r1, #DELAY_SPIN; D: dec r1; bnz r1, D`. -/
def pollSpin (p : Params) (pos : Nat) : List HostOp :=
  [.mov pollDelay (BitVec.ofNat 32 p.delaySpin), .dec pollDelay, .bnz pollDelay (pos + 1)]

/-- `pollLoop` (R157), with its endless branch back to the first selector. -/
def pollLoopCode (p : Params) (pos : Nat) : List HostOp :=
  codeSeq
    [fun _ => initOps p, codeSeq (p.pollSels.map (pollOne p)), pollSpin p, op1 (.b (pos + (initOps p).length))] pos

/-- The expansion of a pseudo-instruction placed at an index of the host program (R102). -/
def Pseudo.expand (p : Params) (i : Pseudo) : Nat → List HostOp :=
  match i with
  | .cmdWait => cmdWaitCode
  | .beginTransaction dir => beginTransactionCode p dir
  | .busWrite b => busWriteCode b
  | .busRead rd last => busReadCode rd last
  | .endTransaction => endTransactionCode
  | .readRegister rd sel => readRegisterCode p rd sel
  | .send rs => sendCode p.sendMode rs
  | .init => fun _ => initOps p
  | .pollLoop => pollLoopCode p

/-- The immediates of an expansion must fit its operations: those of `init`, and for `pollLoop` the spin count too
(log 21). Every other pseudo-instruction can be transcribed with any host register. -/
def Pseudo.wf (p : Params) (i : Pseudo) : Bool :=
  match i with
  | .init => p.divisorsFit
  | .pollLoop => p.divisorsFit && p.delayFits
  | .cmdWait | .beginTransaction _ | .busWrite _ | .busRead _ _ | .endTransaction | .readRegister _ _ | .send _ => true

/-- Transcription of a pseudo-instruction into host operations; an ill-formed one is refused (R102, R152). -/
def Pseudo.transcribe (p : Params) (i : Pseudo) (pos : Nat) : Option (List HostOp) :=
  if i.wf p then some (i.expand p pos) else none

/-- A host program placed from outside, with the host at its beginning (log 7). -/
def State.loadProgram (program : List HostOp) (s : State) : State :=
  { s with host := { s.host with program := program, pc := 0 } }

end Sys2Proof.Machine
end

