-- ==== Sys2Proof/Machine/SensorSlave.lean ====
section
/-! DEFINITION. The optional slave model SensorSlave(SLAVE_ADDR7, value) of 44_host_sequences R149, as a predicate on the
free values of a step. It is no part of the block: a claim may assume it. -/

namespace Sys2Proof.Machine

/-- What the sensor knows from the wire events so far. -/
structure SensorView where
  /-- START has been seen and the address byte is still to come. -/
  awaitsAddress : Bool
  /-- The direction of an open transaction that addressed the sensor. -/
  addressed : Option Direction
  /-- The selected register. -/
  sel : Option Byte
  /-- The number of read transactions so far, of those addressed to the sensor (log 27). -/
  reads : Nat
  /-- The number of bytes sent in the open read transaction. -/
  sent : Nat
  deriving DecidableEq, Repr, Inhabited

/-- Before any event. -/
def SensorView.initial : SensorView where
  awaitsAddress := false
  addressed := none
  sel := none
  reads := 0
  sent := 0

/-- The sensor sees one wire event (R149). DESIGN CHOICE: `reads`, the n of `value(sel, n)`, counts the read transactions
addressed to the sensor (an ACKed read address with its A7) and no other (log 27); the open one counts, as R158 numbers
the samples from 1. -/
def SensorView.see (a7 : BitVec 7) (v : SensorView) (e : BusEvent) : SensorView :=
  match e with
  | .start => { v with awaitsAddress := true, addressed := none }
  | .byteOut b a =>
    if v.awaitsAddress then
      if a && b.extractLsb' 1 7 == a7 then
        if b.getLsbD 0 then
          { v with awaitsAddress := false, addressed := some .read, reads := v.reads + 1, sent := 0 }
        else { v with awaitsAddress := false, addressed := some .write }
      else { v with awaitsAddress := false, addressed := none }
    else if v.addressed == some .write && a then { v with sel := some b }
    else v
  | .byteIn _ _ => { v with sent := v.sent + 1 }
  | .stop => { v with awaitsAddress := false, addressed := none }

/-- What the sensor knows after a trace. -/
def sensorView (a7 : BitVec 7) (trace : List BusEvent) : SensorView :=
  trace.foldl (SensorView.see a7) .initial

/-- The k-th byte of a sample, most significant byte first, k = 1, 2 (R149). -/
def sampleByte (v : BitVec 16) (k : Nat) : Byte :=
  if k = 1 then v.extractLsb' 8 8 else v.extractLsb' 0 8

/-- The free values of s are answers the sensor gives to the pending command: it acknowledges its own address and each
byte written to it, sends the two bytes of value(sel, n), and always releases the bus. Where R149 states nothing (no
register selected yet, a third byte), any answer will do (log 19). SLAVE_FAIR holds, as R149 says. -/
def SensorSlave (value : Byte → Nat → BitVec 16) (s : State) : Prop :=
  s.params.slaveFair = true ∧
  (s.choice.turn = .engine → s.choice.release = true ∧
    match s.i2cm.pending with
    | some (.addr b) => s.choice.ack = (b.extractLsb' 1 7 == s.params.slaveAddr7)
    | some (.write _) =>
      (sensorView s.params.slaveAddr7 s.i2cm.busTrace).addressed = some .write → s.choice.ack = true
    | some .readAck | some .readNack =>
      let v := sensorView s.params.slaveAddr7 s.i2cm.busTrace
      ∀ sel, v.addressed = some .read → v.sel = some sel → v.sent < 2 →
        s.choice.byte = sampleByte (value sel v.reads) (v.sent + 1)
    | some .start | some .stop | none => True)

end Sys2Proof.Machine
end

