-- ==== Sys2Proof/Safety.lean ====
section
/-! DEFINITION. The terms claims are stated in: the invariants of 10_state R44, the transaction grammar of 42_i2c_commands
R115 on wire events, the bytes UTX holds, the observation and the end of a run (70_reset R189), runs and fairness
(R13, R125, R140). -/

namespace Sys2Proof.Machine

/-- s with FAULT recording a code and the access that raised it, with PHASE where the code records one (R43, R162). -/
def State.withFault (c : FaultCode) (addr : Word) (n : Nat) (d : Direction) (v : Option Word) (ph : Option Phase)
    (s : State) : State :=
  { s with fault := some { code := c, info := { addr := addr, width := n, dir := d, value := v }, phase := ph } }

/-- R44 item 1. -/
abbrev State.busyIffPending (s : State) : Prop := s.i2cm.busy = true ↔ s.i2cm.pending ≠ none

/-- R44 item 2. -/
abbrev State.tcIffEmpty (s : State) : Prop := s.utx.tc = true ↔ s.utx.tdr = none ∧ s.utx.shift = none

/-- R44 item 3. -/
abbrev State.nackfPhases (s : State) : Prop :=
  s.i2cm.nackf = true →
    s.i2cm.phase = .addrW ∨ s.i2cm.phase = .addrR ∨ s.i2cm.phase = .dataW ∨ s.i2cm.phase = .stopped

/-- R44 item 4. -/
abbrev State.disabledAtRest (s : State) : Prop :=
  s.i2cm.en = false → s.i2cm.busy = false ∧ (s.i2cm.phase = .idle ∨ s.i2cm.phase = .stopped)

/-- R44 item 5. -/
abbrev State.disabledComplete (s : State) : Prop := s.utx.en = false → s.utx.tc = true

/-- R44 item 6. -/
abbrev State.enabledClocked (s : State) : Prop :=
  (s.i2cm.en = true → s.clk.i2c = true) ∧ (s.utx.en = true → s.clk.utx = true)

/-- The six invariants of R44. -/
abbrev State.ruleInv (s : State) : Prop :=
  s.busyIffPending ∧ s.tcIffEmpty ∧ s.nackfPhases ∧ s.disabledAtRest ∧ s.disabledComplete ∧ s.enabledClocked

/-- The pending command is one the phase accepts: it was checked at issue, and the phase changes only at completion
(R113, R116). -/
abbrev State.pendingLegal (s : State) : Prop :=
  (s.i2cm.pending.all fun c => legal s.i2cm.phase s.i2cm.nackf c.op == none) = true

/-- FRAME always holds 0x08 (R130, R134, R135). -/
abbrev State.frameFixed (s : State) : Prop := s.utx.frame = 0x08#8

/-- The invariants of R44, with the two facts about PENDING and FRAME that make them inductive and complete. -/
abbrev State.Inv (s : State) : Prop := s.ruleInv ∧ s.pendingLegal ∧ s.frameFixed

/-- One wire event in the transaction grammar of R115: from a phase and whether SLAVE has NACKed in the transaction, the
same after the event; none when the grammar has no such event there. -/
def grammarStep (q : Phase × Bool) (e : BusEvent) : Option (Phase × Bool) :=
  match q.1, q.2, e with
  | .idle, _, .start => some (.started, false)
  | .stopped, _, .start => some (.started, false)
  | .started, _, .byteOut b a => some (if b.getLsbD 0 then .addrR else .addrW, !a)
  | .addrW, false, .byteOut _ a => some (.dataW, !a)
  | .dataW, false, .byteOut _ a => some (.dataW, !a)
  | .addrR, false, .byteIn _ true => some (.dataR, false)
  | .addrR, false, .byteIn _ false => some (.dataRLast, false)
  | .dataR, false, .byteIn _ true => some (.dataR, false)
  | .dataR, false, .byteIn _ false => some (.dataRLast, false)
  | .addrW, n, .stop => some (.stopped, n)
  | .dataW, n, .stop => some (.stopped, n)
  | .addrR, true, .stop => some (.stopped, true)
  | .dataRLast, n, .stop => some (.stopped, n)
  | _, _, _ => none

/-- A list of wire events in the grammar of R115, from a place in it. -/
def grammarRun (q : Phase × Bool) : List BusEvent → Option (Phase × Bool)
  | [] => some q
  | e :: es => (grammarStep q e).bind fun q' => grammarRun q' es

/-- BUS_TRACE, read from its start, is a sequence of whole transactions of R115 and at most one unfinished one, and
PHASE and NACKF say where it stands; after an enable PHASE is IDLE again and the last transaction, if any, is whole. -/
def State.traceWellFormed (s : State) : Prop :=
  ∃ q, grammarRun (.idle, false) s.i2cm.busTrace = some q ∧
    (q = (s.i2cm.phase, s.i2cm.nackf) ∨
      (s.i2cm.phase = .idle ∧ s.i2cm.nackf = false ∧ (q.1 = .idle ∨ q.1 = .stopped)))

/-- Every byte UTX was given, in order: those that have left, the one in SHIFT, the one in TDR (R138, R139). -/
def UtxState.stream (u : UtxState) : List Byte := u.lineTrace ++ u.shift.toList ++ u.tdr.toList

/-- The host program has reached its end (R189). -/
def State.hostAtEnd (s : State) : Prop := s.host.program[s.host.pc]? = none

/-- The end of a run (R189). -/
def State.atEnd (s : State) : Prop :=
  s.fault = none ∧ s.i2cm.busy = false ∧ s.utx.tdr = none ∧ s.utx.shift = none ∧ s.hostAtEnd

/-- The host-readable registers, as words; RXDATA is none while unwritten (R178, R189). -/
structure Readable where
  clken : Word
  i2cmCtrl : Word
  clkdiv : Word
  ownaddr : Word
  i2cmStatus : Word
  rxdata : Option Word
  utxCtrl : Word
  baud : Word
  frame : Word
  utxStatus : Word
  deriving DecidableEq, Repr

/-- The host-readable registers of a state (R178). -/
def State.readable (s : State) : Readable where
  clken := clkenWord s.clk
  i2cmCtrl := enableWord s.i2cm.en
  clkdiv := s.i2cm.clkdiv.setWidth 32
  ownaddr := s.i2cm.ownaddr.setWidth 32
  i2cmStatus := i2cmStatusWord s.i2cm
  rxdata := s.i2cm.rxdata.map (·.setWidth 32)
  utxCtrl := enableWord s.utx.en
  baud := s.utx.baud.setWidth 32
  frame := s.utx.frame.setWidth 32
  utxStatus := utxStatusWord s.utx

/-- The observation of a run: the two traces and the host-readable registers (R48, R189). -/
def State.observation (s : State) : List BusEvent × List Byte × Readable :=
  (s.i2cm.busTrace, s.utx.lineTrace, s.readable)

/-- The byte of the last ByteIn event of a trace. -/
def lastByteIn : List BusEvent → Option Byte
  | [] => none
  | .byteIn b _ :: es => some ((lastByteIn es).getD b)
  | _ :: es => lastByteIn es

/-- The read instructions (R103 to R137). -/
def readInstrs : List Instr :=
  [.ldClkClken, .ldI2cmCtrl, .ldI2cmClkdiv, .ldI2cmOwnaddr, .ldI2cmStatus, .ldI2cmRxdata, .ldUtxCtrl, .ldUtxBaud,
   .ldUtxFrame, .ldUtxStatus]

/-- A host operation that makes an access (R17, R101). -/
def HostOp.isAccess : HostOp → Bool
  | .memRead .. | .memWrite .. | .ld .. | .st .. | .encoded .. => true
  | .mov .. | .shl .. | .shr .. | .or .. | .and .. | .dec .. | .bnz .. | .bne .. | .b .. => false

/-- The unit whose window an instruction accesses (R81, R101). -/
def instrUnit : Instr → BlockUnit
  | .ldClkClken | .stClkClken _ => .clk
  | .ldI2cmCtrl | .stI2cmCtrl _ | .ldI2cmClkdiv | .stI2cmClkdiv _ | .ldI2cmOwnaddr | .stI2cmOwnaddr _
  | .stI2cmCmd _ | .ldI2cmStatus | .ldI2cmRxdata | .i2cStart | .i2cAddr _ _ | .i2cWrite _ | .i2cReadAck
  | .i2cReadNack | .i2cStop | .reservedOp0 _ | .reservedOp7 _ => .i2cm
  | .ldUtxCtrl | .stUtxCtrl _ | .ldUtxBaud | .stUtxBaud _ | .ldUtxFrame | .stUtxFrame _ | .stUtxData _
  | .ldUtxStatus => .utx

/-- The byte an instruction gives UTX: the low byte of a DATA write (R95, R136). -/
def instrDataBytes : Instr → List Byte
  | .stUtxData v => [v.setWidth 8]
  | .ldClkClken | .stClkClken _ | .ldI2cmCtrl | .stI2cmCtrl _ | .ldI2cmClkdiv | .stI2cmClkdiv _ | .ldI2cmOwnaddr
  | .stI2cmOwnaddr _ | .stI2cmCmd _ | .ldI2cmStatus | .ldI2cmRxdata | .i2cStart | .i2cAddr _ _ | .i2cWrite _
  | .i2cReadAck | .i2cReadNack | .i2cStop | .reservedOp0 _ | .reservedOp7 _ | .ldUtxCtrl | .stUtxCtrl _ | .ldUtxBaud
  | .stUtxBaud _ | .ldUtxFrame | .stUtxFrame _ | .ldUtxStatus => []

/-- s with given free values for its next step: every interleaving and every SLAVE is a sequence of these. -/
def State.withChoice (c : Choice) (s : State) : State := { s with choice := c }

/-- The states a machine with the parameters p reaches from power-on reset, whatever program the host is given and
whatever the free values are (R4, R177; log 2, 7). -/
inductive Reachable (p : Params) : State → Prop where
  | reset : Reachable p (State.resetWith p)
  | load (s : State) (program : List HostOp) : Reachable p s → Reachable p (s.loadProgram program)
  | next (s t : State) (c : Choice) : Reachable p s → step (s.withChoice c) = .next t → Reachable p t

/-- A run: each state's step, under the free values given for it, leads to the next state (R4, R18). -/
def IsRun (c : Nat → Choice) (r : Nat → State) : Prop :=
  ∀ k, step ((r k).withChoice (c k)) = .next (r (k + 1))

/-- BUSY = 1 does not hold forever: every pending command eventually completes (R13). -/
def BusyEnds (r : Nat → State) : Prop := ∀ k, ∃ j, k ≤ j ∧ (r j).i2cm.busy = false

/-- With SLAVE_FAIR = true, no run in which BUSY = 1 holds forever is admitted (R13, R125). -/
def SlaveFairRun (r : Nat → State) : Prop := (r 0).params.slaveFair = true → BusyEnds r

/-- A run whose SLAVE is the sensor (R149): it answers as SensorSlave at every step, and the fairness that SLAVE_FAIR
stands for holds. -/
def SensorSlaveRun (value : Byte → Nat → BitVec 16) (c : Nat → Choice) (r : Nat → State) : Prop :=
  (∀ k, SensorSlave value ((r k).withChoice (c k))) ∧ SlaveFairRun r

/-- TX has an enabled step: load or shift-out (R138, R139). -/
def State.txEnabled (s : State) : Prop :=
  s.fault = none ∧ (s.utx.shift ≠ none ∨ (s.utx.en = true ∧ s.utx.tdr ≠ none))

/-- TX is weakly fair: a TX step that stays enabled is eventually taken (R140). -/
def TxFairRun (c : Nat → Choice) (r : Nat → State) : Prop :=
  ∀ k, (∀ j, k ≤ j → (r j).txEnabled) → ∃ j, k ≤ j ∧ (c j).turn = .tx

end Sys2Proof.Machine
end

