-- ==== Sys2Proof/Certificates/Slice0/Obligations.lean ====
section
/-! DEFINITION. The statements for the provers. Each docstring names what of spec/ it formalises. A fault is written out
as FAULT's record (`State.withFault`), and `State.refresh` is the taking of the next step's free values, with which every
step ends (log 2). -/

open Sys2Proof Sys2Proof.Machine

/-- 30_encoding sections 1, 3 and 4: no bit of an encoding is dropped. -/
def Obligations.DecodeOfEncodeIsIdentity : Prop :=
  ∀ i : Instr, decode (encode i) = .ok i

/-- 30_encoding sections 1, 3 and 4: bits that decode are the encoding of what they decode to; only the data word beside
a read's descriptor, which a read does not carry, is free. -/
def Obligations.DecodedBitsAreTheEncoding : Prop :=
  (∀ (desc : BitVec 16) (v : Word) (i : Instr), decode (.acc desc v) = .ok i →
    ∃ d, encode i = .acc desc d ∧ (desc.getLsbD 13 = true → d = v)) ∧
  (∀ (w : Word) (i : Instr), decode (.cmd w) = .ok i → encode i = .cmd w)

/-- 30_encoding sections 1 and 4: some of the opcode table's words, as the decoder reads them. -/
def Obligations.TableWordsDecode : Prop :=
  decodeTableWord 16 0x2000 = some (.stClkClken 0#32) ∧
  decodeTableWord 16 0x4010 = some .ldI2cmStatus ∧
  decodeTableWord 16 0x600C = some (.stI2cmCmd 0#32) ∧
  decodeTableWord 16 0xA00C = some (.stUtxData 0#32) ∧
  decodeTableWord 16 0x8014 = none ∧
  decodeTableWord 32 0x00000001 = some .i2cStart ∧
  decodeTableWord 32 0x0000EF02 = some (.i2cAddr 0x77#7 .read) ∧
  decodeTableWord 32 0x00003403 = some (.i2cWrite 0x34#8) ∧
  decodeTableWord 32 0x00000106 = none

/-- 30_encoding section 1 (R80) and section 6: an I2CM command named by its CMD word is the write of that word to
I2CM.CMD. -/
def Obligations.CommandIsWriteOfItsWord : Prop :=
  ∀ (w : Word) (i : Instr) (s : State), decode (.cmd w) = .ok i → exec i s = exec (.stI2cmCmd w) s

/-- R61. -/
def Obligations.AddressDecoding : Prop :=
  ∀ (p : Params) (addr : Word),
    decodeAddr p addr =
      if p.clkBase.toNat ≤ addr.toNat ∧ addr.toNat < p.clkBase.toNat + 256 then
        some (.clk, BitVec.ofNat 8 (addr.toNat - p.clkBase.toNat))
      else if p.i2cmBase.toNat ≤ addr.toNat ∧ addr.toNat < p.i2cmBase.toNat + 256 then
        some (.i2cm, BitVec.ofNat 8 (addr.toNat - p.i2cmBase.toNat))
      else if p.utxBase.toNat ≤ addr.toNat ∧ addr.toNat < p.utxBase.toNat + 256 then
        some (.utx, BitVec.ofNat 8 (addr.toNat - p.utxBase.toNat))
      else none

/-- R64: in a window, an access that is not 4 bytes wide or not aligned raises F03 and has no other effect; an aligned
word access is not stopped by this check. Which v the record holds for a write that is not 4 bytes wide is left open
here (log 24). -/
def Obligations.OnlyAlignedWords : Prop :=
  ∀ (addr : Word) (n : Nat) (d : Direction) (v : Word) (s : State) (u : BlockUnit) (off : Byte),
    s.fault = none → decodeAddr s.params addr = some (u, off) →
    (n ≠ 4 ∨ addr.toNat % 4 ≠ 0 →
      ∃ w, (n = 4 ∨ d = .read → w = if d = .write then some v else none) ∧
        memAccess addr n d v s = .next (s.withFault .badWidth addr n d w none)) ∧
    (n = 4 → addr.toNat % 4 = 0 → memAccess addr n d v s = performAccess (.acc (accDesc u d off) v) s)

/-- R65, each case with the checks that R164 puts before it passed: an offset with no register, a write to a read-only
register, a read of a write-only register. -/
def Obligations.UnmappedAndWrongDirection : Prop :=
  ∀ (s : State) (v : Word), s.fault = none → s.params.basesWf = true →
    (∀ (u : BlockUnit) (off : Byte) (d : Direction), off.toNat % 4 = 0 →
      (u = .clk ∧ 0x04 ≤ off.toNat) ∨ (u = .i2cm ∧ 0x18 ≤ off.toNat) ∨ (u = .utx ∧ 0x14 ≤ off.toNat) →
      memAccess (s.params.base u + off.setWidth 32) 4 d v s =
        .next (s.withFault .unmapped (s.params.base u + off.setWidth 32) 4 d
          (if d = .write then some v else none) none)) ∧
    (s.clk.i2c = true → ∀ off : Byte, off = 0x10#8 ∨ off = 0x14#8 →
      memAccess (s.params.i2cmBase + off.setWidth 32) 4 .write v s =
        .next (s.withFault .writeToReadOnly (s.params.i2cmBase + off.setWidth 32) 4 .write (some v) none)) ∧
    (s.clk.utx = true →
      memAccess (s.params.utxBase + 0x10#32) 4 .write v s =
        .next (s.withFault .writeToReadOnly (s.params.utxBase + 0x10#32) 4 .write (some v) none)) ∧
    (s.clk.i2c = true →
      memAccess (s.params.i2cmBase + 0x0C#32) 4 .read v s =
        .next (s.withFault .readOfWriteOnly (s.params.i2cmBase + 0x0C#32) 4 .read none none)) ∧
    (s.clk.utx = true →
      memAccess (s.params.utxBase + 0x0C#32) 4 .read v s =
        .next (s.withFault .readOfWriteOnly (s.params.utxBase + 0x0C#32) 4 .read none none))

/-- 60_exceptions section 2 (R164): the order of the common checks, for every access that decodes to a window: F03, F02,
F01, F04 or F05; an access that passes them is the instruction its descriptor decodes to. The v that F03 records for a
write that is not 4 bytes wide is the model's choice (log 24). -/
def Obligations.CommonAccessChecks : Prop :=
  ∀ (addr : Word) (n : Nat) (d : Direction) (v : Word) (s : State) (u : BlockUnit) (off : Byte),
    s.fault = none → decodeAddr s.params addr = some (u, off) →
    let w : Option Word := if d = .write then some v else none
    if n ≠ 4 ∨ addr.toNat % 4 ≠ 0 then memAccess addr n d v s = .next (s.withFault .badWidth addr n d w none)
    else if regAt u off = none then memAccess addr n d v s = .next (s.withFault .unmapped addr 4 d w none)
    else if (u = .i2cm ∧ s.clk.i2c = false) ∨ (u = .utx ∧ s.clk.utx = false) then
      memAccess addr n d v s = .next (s.withFault .clockGated addr 4 d w none)
    else if d = .write ∧ (regAt u off = some .i2cmStatus ∨ regAt u off = some .i2cmRxdata ∨
        regAt u off = some .utxStatus) then
      memAccess addr n d v s = .next (s.withFault .writeToReadOnly addr 4 d w none)
    else if d = .read ∧ (regAt u off = some .i2cmCmd ∨ regAt u off = some .utxData) then
      memAccess addr n d v s = .next (s.withFault .readOfWriteOnly addr 4 d w none)
    else ∃ i, decode (.acc (accDesc u d off) v) = .ok i ∧ memAccess addr n d v s = exec i s

/-- 20_memory sections 1 and 3, 30_encoding section 1: an aligned word access to a register, in a direction the register
allows, is the instruction of its descriptor. -/
def Obligations.WordAccessIsItsInstruction : Prop :=
  ∀ (s : State) (u : BlockUnit) (off : Byte) (d : Direction) (v : Word) (i : Instr),
    s.params.basesWf = true → decode (.acc (accDesc u d off) v) = .ok i →
    memAccess (s.params.base u + off.setWidth 32) 4 d v s = exec i s

/-- R105: every access to a register of a gated unit raises F01; the CLK window is never gated; ENGINE and TX change
nothing of a gated unit, and gating a unit keeps every state element of it. That the unit takes no step rests on the
invariants of R44. -/
def Obligations.GatedUnit : Prop :=
  ∀ s : State, s.fault = none →
    (s.clk.i2c = false → ∀ (r : RegName) (d : Direction) (v : Word), r.unit = .i2cm →
      performAccess (.acc (accDesc .i2cm d r.off) v) s =
        .next (s.withFault .clockGated (s.params.i2cmBase + r.off.setWidth 32) 4 d
          (if d = .write then some v else none) none)) ∧
    (s.clk.utx = false → ∀ (r : RegName) (d : Direction) (v : Word), r.unit = .utx →
      performAccess (.acc (accDesc .utx d r.off) v) s =
        .next (s.withFault .clockGated (s.params.utxBase + r.off.setWidth 32) 4 d
          (if d = .write then some v else none) none)) ∧
    (∀ (i : Instr) (t : State) (f : FaultRecord), i = .ldClkClken ∨ (∃ v, i = .stClkClken v) →
      exec i s = .next t → t.fault = some f → f.code ≠ .clockGated) ∧
    (s.Inv → s.clk.i2c = false → (engineStep s).i2cm = s.i2cm) ∧
    (s.Inv → s.clk.utx = false → (txStep s).utx = s.utx) ∧
    (∀ (v : Word) (t : State), exec (.stClkClken v) s = .next t → t.i2cm = s.i2cm ∧ t.utx = s.utx)

/-- R103. -/
def Obligations.ClkenRead : Prop :=
  decode (.acc 0x0000#16 0#32) = .ok .ldClkClken ∧
  ∀ s : State, s.fault = none →
    exec .ldClkClken s =
      .next { s with
        readData := BitVec.ofNat 32 ((if s.clk.utx then 2 else 0) + (if s.clk.i2c then 1 else 0)) }

/-- R104. -/
def Obligations.ClkenWrite : Prop :=
  ∀ (v : Word) (s : State), s.fault = none →
    decode (.acc 0x2000#16 v) = .ok (.stClkClken v) ∧
    exec (.stClkClken v) s = .next (
      if 4 ≤ v.toNat then s.withFault .reservedBits s.params.clkBase 4 .write (some v) none
      else if v.toNat % 2 = 0 ∧ s.i2cm.en = true then
        s.withFault .clockOffWhileEnabled s.params.clkBase 4 .write (some v) none
      else if v.toNat < 2 ∧ s.utx.en = true then
        s.withFault .clockOffWhileEnabled s.params.clkBase 4 .write (some v) none
      else { s with clk := { i2c := decide (v.toNat % 2 = 1), utx := decide (2 ≤ v.toNat) } })

/-- R106, R108, R111, R113, R114, with the check that comes before them (F01). The PHASE code is R28's. -/
def Obligations.I2cmReads : Prop :=
  decode (.acc 0x4000#16 0#32) = .ok .ldI2cmCtrl ∧
  decode (.acc 0x4004#16 0#32) = .ok .ldI2cmClkdiv ∧
  decode (.acc 0x4008#16 0#32) = .ok .ldI2cmOwnaddr ∧
  decode (.acc 0x4010#16 0#32) = .ok .ldI2cmStatus ∧
  decode (.acc 0x4014#16 0#32) = .ok .ldI2cmRxdata ∧
  ∀ s : State, s.fault = none →
    exec .ldI2cmCtrl s = .next (
      if s.clk.i2c = false then s.withFault .clockGated s.params.i2cmBase 4 .read none none
      else { s with readData := if s.i2cm.en then 1#32 else 0#32 }) ∧
    exec .ldI2cmClkdiv s = .next (
      if s.clk.i2c = false then s.withFault .clockGated (s.params.i2cmBase + 0x04#32) 4 .read none none
      else { s with readData := BitVec.ofNat 32 s.i2cm.clkdiv.toNat }) ∧
    exec .ldI2cmOwnaddr s = .next (
      if s.clk.i2c = false then s.withFault .clockGated (s.params.i2cmBase + 0x08#32) 4 .read none none
      else { s with readData := BitVec.ofNat 32 s.i2cm.ownaddr.toNat }) ∧
    exec .ldI2cmStatus s = .next (
      if s.clk.i2c = false then s.withFault .clockGated (s.params.i2cmBase + 0x10#32) 4 .read none none
      else { s with
        readData := BitVec.ofNat 32
          (16 * (match s.i2cm.phase with
            | .idle => 0 | .started => 1 | .addrW => 2 | .addrR => 3 | .dataW => 4 | .dataR => 5 | .dataRLast => 6
            | .stopped => 7) +
          (if s.i2cm.nackf then 4 else 0) + (if s.i2cm.ack then 2 else 0) + (if s.i2cm.busy then 1 else 0)) }) ∧
    exec .ldI2cmRxdata s = .next (
      if s.clk.i2c = false then s.withFault .clockGated (s.params.i2cmBase + 0x14#32) 4 .read none none
      else match s.i2cm.rxdata with
        | none => s.withFault .unwrittenRead (s.params.i2cmBase + 0x14#32) 4 .read none none
        | some b => { s with readData := BitVec.ofNat 32 b.toNat })

/-- R107, with the check that comes before it (F01). -/
def Obligations.I2cmCtrlWrite : Prop :=
  ∀ (v : Word) (s : State), s.fault = none →
    decode (.acc 0x6000#16 v) = .ok (.stI2cmCtrl v) ∧
    exec (.stI2cmCtrl v) s = .next (
      if s.clk.i2c = false then s.withFault .clockGated s.params.i2cmBase 4 .write (some v) none
      else if 2 ≤ v.toNat then s.withFault .reservedBits s.params.i2cmBase 4 .write (some v) none
      else if s.i2cm.en = false ∧ v = 1#32 then
        if s.i2cm.clkdiv = 0#16 then s.withFault .unsupportedConfig s.params.i2cmBase 4 .write (some v) none
        else if s.params.pinsRoutedI2c = false then
          s.withFault .pinsNotRouted s.params.i2cmBase 4 .write (some v) none
        else { s with i2cm := { s.i2cm with en := true, phase := .idle, ack := false, nackf := false } }
      else if s.i2cm.en = true ∧ v = 0#32 then
        if s.i2cm.busy = true ∨ (s.i2cm.phase ≠ .idle ∧ s.i2cm.phase ≠ .stopped) then
          s.withFault .disableWhileActive s.params.i2cmBase 4 .write (some v) none
        else { s with i2cm := { s.i2cm with en := false } }
      else s)

/-- R109 and R112, with the check that comes before them (F01). -/
def Obligations.I2cmConfigWrites : Prop :=
  ∀ (v : Word) (s : State), s.fault = none →
    decode (.acc 0x6004#16 v) = .ok (.stI2cmClkdiv v) ∧
    decode (.acc 0x6008#16 v) = .ok (.stI2cmOwnaddr v) ∧
    exec (.stI2cmClkdiv v) s = .next (
      if s.clk.i2c = false then s.withFault .clockGated (s.params.i2cmBase + 0x04#32) 4 .write (some v) none
      else if 65536 ≤ v.toNat then
        s.withFault .reservedBits (s.params.i2cmBase + 0x04#32) 4 .write (some v) none
      else if s.i2cm.en = true then
        s.withFault .configWhileEnabled (s.params.i2cmBase + 0x04#32) 4 .write (some v) none
      else { s with i2cm := { s.i2cm with clkdiv := BitVec.ofNat 16 v.toNat } }) ∧
    exec (.stI2cmOwnaddr v) s = .next (
      if s.clk.i2c = false then s.withFault .clockGated (s.params.i2cmBase + 0x08#32) 4 .write (some v) none
      else if 128 ≤ v.toNat then s.withFault .reservedBits (s.params.i2cmBase + 0x08#32) 4 .write (some v) none
      else if s.i2cm.en = true then
        s.withFault .configWhileEnabled (s.params.i2cmBase + 0x08#32) 4 .write (some v) none
      else { s with i2cm := { s.i2cm with ownaddr := BitVec.ofNat 7 v.toNat } })

/-- R116, with the check that comes before it (F01): every CMD write, in R116's order of checks; `legal` is R117's. -/
def Obligations.CommandIssue : Prop :=
  ∀ (v : Word) (s : State), s.fault = none →
    decode (.acc 0x600C#16 v) = .ok (.stI2cmCmd v) ∧
    exec (.stI2cmCmd v) s = .next (
      if s.clk.i2c = false then
        s.withFault .clockGated (s.params.i2cmBase + 0x0C#32) 4 .write (some v) none
      else if v.extractLsb 31 16 ≠ 0 ∨ v.extractLsb 7 3 ≠ 0 then
        s.withFault .reservedBits (s.params.i2cmBase + 0x0C#32) 4 .write (some v) none
      else if s.i2cm.en = false then
        s.withFault .notEnabled (s.params.i2cmBase + 0x0C#32) 4 .write (some v) none
      else if s.i2cm.busy = true then
        s.withFault .cmdWhileBusy (s.params.i2cmBase + 0x0C#32) 4 .write (some v) none
      else if v.toNat % 8 = 0 ∨ v.toNat % 8 = 7 then
        s.withFault .illegalCommand (s.params.i2cmBase + 0x0C#32) 4 .write (some v) none
      else if v.toNat % 8 ≠ 2 ∧ v.toNat % 8 ≠ 3 ∧ v.extractLsb 15 8 ≠ 0 then
        s.withFault .reservedBits (s.params.i2cmBase + 0x0C#32) 4 .write (some v) none
      else
        let op : CmdOp := if v.toNat % 8 = 1 then .start else if v.toNat % 8 = 2 then .addr
          else if v.toNat % 8 = 3 then .write else if v.toNat % 8 = 4 then .readAck
          else if v.toNat % 8 = 5 then .readNack else .stop
        let c : Command := if v.toNat % 8 = 1 then .start else if v.toNat % 8 = 2 then .addr (v.extractLsb 15 8)
          else if v.toNat % 8 = 3 then .write (v.extractLsb 15 8) else if v.toNat % 8 = 4 then .readAck
          else if v.toNat % 8 = 5 then .readNack else .stop
        match legal s.i2cm.phase s.i2cm.nackf op with
        | some code =>
          s.withFault code (s.params.i2cmBase + 0x0C#32) 4 .write (some v) (some s.i2cm.phase)
        | none => { s with i2cm := { s.i2cm with pending := some c, busy := true } })

/-- R117, as its table has it; the columns are START, ADDR, WRITE, READ_ACK, READ_NACK, STOP. -/
def Obligations.LegalityTable : Prop :=
  ∀ (phase : Phase) (nackf : Bool),
    [legal phase nackf .start, legal phase nackf .addr, legal phase nackf .write,
     legal phase nackf .readAck, legal phase nackf .readNack, legal phase nackf .stop] =
      if nackf = true ∧ (phase = .addrW ∨ phase = .addrR ∨ phase = .dataW) then
        [some .cmdAfterSlaveNack, some .cmdAfterSlaveNack, some .cmdAfterSlaveNack, some .cmdAfterSlaveNack,
         some .cmdAfterSlaveNack, none]
      else match phase with
        | .idle | .stopped =>
          [none, some .sequence, some .sequence, some .sequence, some .sequence, some .sequence]
        | .started => [some .sequence, none, some .sequence, some .sequence, some .sequence, some .sequence]
        | .addrW | .dataW => [some .sequence, some .sequence, none, some .sequence, some .sequence, none]
        | .addrR => [some .sequence, some .sequence, some .sequence, none, none, some .sequence]
        | .dataR => [some .sequence, some .sequence, some .sequence, none, none, some .ackOnFinalByte]
        | .dataRLast =>
          [some .sequence, some .sequence, some .sequence, some .readAfterFinal, some .readAfterFinal, none]

/-- R118: START's encoding, its issue while I2CM takes commands, and its completion by ENGINE. -/
def Obligations.StartCommand : Prop :=
  decode (.cmd 0x00000001#32) = .ok .i2cStart ∧
  (∀ s : State, s.fault = none → s.clk.i2c = true → s.i2cm.en = true → s.i2cm.busy = false →
    exec .i2cStart s = .next (
      if s.i2cm.nackf = true ∧ (s.i2cm.phase = .addrW ∨ s.i2cm.phase = .addrR ∨ s.i2cm.phase = .dataW) then
        s.withFault .cmdAfterSlaveNack (s.params.i2cmBase + 0x0C#32) 4 .write (some 0x00000001#32)
          (some s.i2cm.phase)
      else if s.i2cm.phase = .idle ∨ s.i2cm.phase = .stopped then
        { s with i2cm := { s.i2cm with pending := some .start, busy := true } }
      else s.withFault .sequence (s.params.i2cmBase + 0x0C#32) 4 .write (some 0x00000001#32)
        (some s.i2cm.phase))) ∧
  (∀ s : State, s.fault = none → s.choice.turn = .engine → s.choice.release = true → s.i2cm.busy = true →
    s.i2cm.pending = some .start →
    step s = .next (State.refresh { s with
      i2cm := { s.i2cm with
        busTrace := s.i2cm.busTrace ++ [.start], phase := .started, ack := false, nackf := false,
        pending := none, busy := false } }))

/-- R119: ADDR's encoding, its issue while I2CM takes commands, and its completion by ENGINE. -/
def Obligations.AddrCommand : Prop :=
  (∀ (a7 : BitVec 7) (dir : Direction),
    decode (.cmd (BitVec.ofNat 32 (512 * a7.toNat + (if dir = .read then 256 else 0) + 2))) = .ok (.i2cAddr a7 dir)) ∧
  (∀ (a7 : BitVec 7) (dir : Direction) (s : State),
    s.fault = none → s.clk.i2c = true → s.i2cm.en = true → s.i2cm.busy = false →
    exec (.i2cAddr a7 dir) s = .next (
      if s.i2cm.phase = .started then
        { s with i2cm := { s.i2cm with
          pending := some (.addr (BitVec.ofNat 8 (2 * a7.toNat + (if dir = .read then 1 else 0)))), busy := true } }
      else s.withFault
        (if s.i2cm.nackf = true ∧ (s.i2cm.phase = .addrW ∨ s.i2cm.phase = .addrR ∨ s.i2cm.phase = .dataW)
          then .cmdAfterSlaveNack else .sequence)
        (s.params.i2cmBase + 0x0C#32) 4 .write
        (some (BitVec.ofNat 32 (512 * a7.toNat + (if dir = .read then 256 else 0) + 2))) (some s.i2cm.phase))) ∧
  (∀ (b : Byte) (s : State), s.fault = none → s.choice.turn = .engine → s.choice.release = true →
    s.i2cm.busy = true → s.i2cm.pending = some (.addr b) →
    step s = .next (State.refresh { s with
      i2cm := { s.i2cm with
        busTrace := s.i2cm.busTrace ++ [.byteOut b s.choice.ack], ack := s.choice.ack,
        nackf := if s.choice.ack = false then true else s.i2cm.nackf,
        phase := if b.toNat % 2 = 0 then .addrW else .addrR,
        pending := none, busy := false } }))

/-- R120: WRITE's encoding, its issue while I2CM takes commands, and its completion by ENGINE. -/
def Obligations.WriteCommand : Prop :=
  (∀ d : Byte, decode (.cmd (BitVec.ofNat 32 (256 * d.toNat + 3))) = .ok (.i2cWrite d)) ∧
  (∀ (d : Byte) (s : State), s.fault = none → s.clk.i2c = true → s.i2cm.en = true → s.i2cm.busy = false →
    exec (.i2cWrite d) s = .next (
      if s.i2cm.nackf = true ∧ (s.i2cm.phase = .addrW ∨ s.i2cm.phase = .addrR ∨ s.i2cm.phase = .dataW) then
        s.withFault .cmdAfterSlaveNack (s.params.i2cmBase + 0x0C#32) 4 .write
          (some (BitVec.ofNat 32 (256 * d.toNat + 3))) (some s.i2cm.phase)
      else if s.i2cm.phase = .addrW ∨ s.i2cm.phase = .dataW then
        { s with i2cm := { s.i2cm with pending := some (.write d), busy := true } }
      else s.withFault .sequence (s.params.i2cmBase + 0x0C#32) 4 .write
        (some (BitVec.ofNat 32 (256 * d.toNat + 3))) (some s.i2cm.phase))) ∧
  (∀ (d : Byte) (s : State), s.fault = none → s.choice.turn = .engine → s.choice.release = true →
    s.i2cm.busy = true → s.i2cm.pending = some (.write d) →
    step s = .next (State.refresh { s with
      i2cm := { s.i2cm with
        busTrace := s.i2cm.busTrace ++ [.byteOut d s.choice.ack], ack := s.choice.ack,
        nackf := if s.choice.ack = false then true else s.i2cm.nackf,
        phase := .dataW, pending := none, busy := false } }))

/-- R121: READ_ACK's encoding, its issue while I2CM takes commands, and its completion by ENGINE. -/
def Obligations.ReadAckCommand : Prop :=
  decode (.cmd 0x00000004#32) = .ok .i2cReadAck ∧
  (∀ s : State, s.fault = none → s.clk.i2c = true → s.i2cm.en = true → s.i2cm.busy = false →
    exec .i2cReadAck s = .next (
      if s.i2cm.nackf = true ∧ (s.i2cm.phase = .addrW ∨ s.i2cm.phase = .addrR ∨ s.i2cm.phase = .dataW) then
        s.withFault .cmdAfterSlaveNack (s.params.i2cmBase + 0x0C#32) 4 .write (some 0x00000004#32)
          (some s.i2cm.phase)
      else if s.i2cm.phase = .addrR ∨ s.i2cm.phase = .dataR then
        { s with i2cm := { s.i2cm with pending := some .readAck, busy := true } }
      else s.withFault (if s.i2cm.phase = .dataRLast then .readAfterFinal else .sequence)
        (s.params.i2cmBase + 0x0C#32) 4 .write (some 0x00000004#32) (some s.i2cm.phase))) ∧
  (∀ s : State, s.fault = none → s.choice.turn = .engine → s.choice.release = true → s.i2cm.busy = true →
    s.i2cm.pending = some .readAck →
    step s = .next (State.refresh { s with
      i2cm := { s.i2cm with
        busTrace := s.i2cm.busTrace ++ [.byteIn s.choice.byte true], rxdata := some s.choice.byte, ack := true,
        phase := .dataR, pending := none, busy := false } }))

/-- R122: READ_NACK's encoding, its issue while I2CM takes commands, and its completion by ENGINE. -/
def Obligations.ReadNackCommand : Prop :=
  decode (.cmd 0x00000005#32) = .ok .i2cReadNack ∧
  (∀ s : State, s.fault = none → s.clk.i2c = true → s.i2cm.en = true → s.i2cm.busy = false →
    exec .i2cReadNack s = .next (
      if s.i2cm.nackf = true ∧ (s.i2cm.phase = .addrW ∨ s.i2cm.phase = .addrR ∨ s.i2cm.phase = .dataW) then
        s.withFault .cmdAfterSlaveNack (s.params.i2cmBase + 0x0C#32) 4 .write (some 0x00000005#32)
          (some s.i2cm.phase)
      else if s.i2cm.phase = .addrR ∨ s.i2cm.phase = .dataR then
        { s with i2cm := { s.i2cm with pending := some .readNack, busy := true } }
      else s.withFault (if s.i2cm.phase = .dataRLast then .readAfterFinal else .sequence)
        (s.params.i2cmBase + 0x0C#32) 4 .write (some 0x00000005#32) (some s.i2cm.phase))) ∧
  (∀ s : State, s.fault = none → s.choice.turn = .engine → s.choice.release = true → s.i2cm.busy = true →
    s.i2cm.pending = some .readNack →
    step s = .next (State.refresh { s with
      i2cm := { s.i2cm with
        busTrace := s.i2cm.busTrace ++ [.byteIn s.choice.byte false], rxdata := some s.choice.byte, ack := false,
        phase := .dataRLast, pending := none, busy := false } }))

/-- R123: STOP's encoding, its issue while I2CM takes commands, and its completion by ENGINE. -/
def Obligations.StopCommand : Prop :=
  decode (.cmd 0x00000006#32) = .ok .i2cStop ∧
  (∀ s : State, s.fault = none → s.clk.i2c = true → s.i2cm.en = true → s.i2cm.busy = false →
    exec .i2cStop s = .next (
      if s.i2cm.phase = .addrW ∨ s.i2cm.phase = .dataW ∨ s.i2cm.phase = .dataRLast ∨
          (s.i2cm.phase = .addrR ∧ s.i2cm.nackf = true) then
        { s with i2cm := { s.i2cm with pending := some .stop, busy := true } }
      else s.withFault (if s.i2cm.phase = .dataR then .ackOnFinalByte else .sequence)
        (s.params.i2cmBase + 0x0C#32) 4 .write (some 0x00000006#32) (some s.i2cm.phase))) ∧
  (∀ s : State, s.fault = none → s.choice.turn = .engine → s.choice.release = true → s.i2cm.busy = true →
    s.i2cm.pending = some .stop →
    step s = .next (State.refresh { s with
      i2cm := { s.i2cm with
        busTrace := s.i2cm.busTrace ++ [.stop], phase := .stopped, pending := none, busy := false } }))

/-- 42_i2c_commands section 1 and 30_encoding section 4: a command word with a reserved OP, written to an enabled I2CM
with no command pending: F06 when one of its reserved bits is set, else F10. -/
def Obligations.ReservedOpsFault : Prop :=
  ∀ (rest : BitVec 29) (s : State), s.fault = none → s.clk.i2c = true → s.i2cm.en = true → s.i2cm.busy = false →
    exec (.reservedOp0 rest) s =
      .next (s.withFault (if rest.toNat % 32 = 0 ∧ rest.toNat < 8192 then .illegalCommand else .reservedBits)
        (s.params.i2cmBase + 0x0C#32) 4 .write (some (BitVec.ofNat 32 (8 * rest.toNat))) none) ∧
    exec (.reservedOp7 rest) s =
      .next (s.withFault (if rest.toNat % 32 = 0 ∧ rest.toNat < 8192 then .illegalCommand else .reservedBits)
        (s.params.i2cmBase + 0x0C#32) 4 .write (some (BitVec.ofNat 32 (8 * rest.toNat + 7))) none)

/-- R124: ENGINE's turn completes the pending command when FAULT is clear, BUSY = 1 and SLAVE releases the bus, and
changes I2CM only then; it never faults. What `completeCommand` does for each command is what the statements of R118 to
R123 write out. -/
def Obligations.EngineTurn : Prop :=
  ∀ s : State, s.choice.turn = .engine →
    (∀ c, s.fault = none → s.i2cm.busy = true → s.choice.release = true → s.i2cm.pending = some c →
      step s = .next (State.refresh { s with
        i2cm := { completeCommand c s.choice.ack s.choice.byte s.i2cm with pending := none, busy := false } })) ∧
    (∀ t, step s = .next t →
      t.fault = none ∧ t = { s.refresh with i2cm := t.i2cm } ∧
      (t.i2cm ≠ s.i2cm → s.fault = none ∧ s.i2cm.busy = true ∧ s.choice.release = true ∧ s.i2cm.pending ≠ none)) ∧
    (s.fault = none → ∀ r, step s ≠ .fault r)

/-- R129, R131, R134, R137, with the check that comes before them (F01); and, under the invariants, FRAME always reads
8 and STATUS never reads 2. -/
def Obligations.UtxReads : Prop :=
  decode (.acc 0x8000#16 0#32) = .ok .ldUtxCtrl ∧
  decode (.acc 0x8004#16 0#32) = .ok .ldUtxBaud ∧
  decode (.acc 0x8008#16 0#32) = .ok .ldUtxFrame ∧
  decode (.acc 0x8010#16 0#32) = .ok .ldUtxStatus ∧
  ∀ s : State, s.fault = none →
    exec .ldUtxCtrl s = .next (
      if s.clk.utx = false then s.withFault .clockGated s.params.utxBase 4 .read none none
      else { s with readData := if s.utx.en then 1#32 else 0#32 }) ∧
    exec .ldUtxBaud s = .next (
      if s.clk.utx = false then s.withFault .clockGated (s.params.utxBase + 0x04#32) 4 .read none none
      else { s with readData := BitVec.ofNat 32 s.utx.baud.toNat }) ∧
    exec .ldUtxFrame s = .next (
      if s.clk.utx = false then s.withFault .clockGated (s.params.utxBase + 0x08#32) 4 .read none none
      else { s with readData := BitVec.ofNat 32 s.utx.frame.toNat }) ∧
    exec .ldUtxStatus s = .next (
      if s.clk.utx = false then s.withFault .clockGated (s.params.utxBase + 0x10#32) 4 .read none none
      else { s with
        readData := BitVec.ofNat 32 ((if s.utx.tc then 2 else 0) + (if s.utx.tdr = none then 1 else 0)) }) ∧
    (s.Inv → s.utx.frame = 8#8 ∧ ¬(s.utx.tc = true ∧ s.utx.tdr ≠ none))

/-- R130, with the check that comes before it (F01). What it says of TXE, TC and FRAME rests on the invariants. -/
def Obligations.UtxCtrlWrite : Prop :=
  ∀ (v : Word) (s : State), s.fault = none →
    decode (.acc 0xA000#16 v) = .ok (.stUtxCtrl v) ∧
    exec (.stUtxCtrl v) s = .next (
      if s.clk.utx = false then s.withFault .clockGated s.params.utxBase 4 .write (some v) none
      else if 2 ≤ v.toNat then s.withFault .reservedBits s.params.utxBase 4 .write (some v) none
      else if s.utx.en = false ∧ v = 1#32 then
        if s.utx.baud = 0#16 then s.withFault .unsupportedConfig s.params.utxBase 4 .write (some v) none
        else if s.params.pinsRoutedUtx = false then
          s.withFault .pinsNotRouted s.params.utxBase 4 .write (some v) none
        else { s with utx := { s.utx with en := true } }
      else if s.utx.en = true ∧ v = 0#32 then
        if s.utx.tdr ≠ none ∨ s.utx.shift ≠ none then
          s.withFault .disableWhileActive s.params.utxBase 4 .write (some v) none
        else { s with utx := { s.utx with en := false } }
      else s) ∧
    (s.Inv →
      (s.utx.en = false → s.utx.tdr = none ∧ s.utx.tc = true) ∧
      (s.utx.tc = false ↔ s.utx.tdr ≠ none ∨ s.utx.shift ≠ none) ∧ s.utx.frame = 0x08#8)

/-- R132 and R135, with the check that comes before them (F01). -/
def Obligations.UtxConfigWrites : Prop :=
  ∀ (v : Word) (s : State), s.fault = none →
    decode (.acc 0xA004#16 v) = .ok (.stUtxBaud v) ∧
    decode (.acc 0xA008#16 v) = .ok (.stUtxFrame v) ∧
    exec (.stUtxBaud v) s = .next (
      if s.clk.utx = false then s.withFault .clockGated (s.params.utxBase + 0x04#32) 4 .write (some v) none
      else if 65536 ≤ v.toNat then
        s.withFault .reservedBits (s.params.utxBase + 0x04#32) 4 .write (some v) none
      else if s.utx.en = true then
        s.withFault .configWhileEnabled (s.params.utxBase + 0x04#32) 4 .write (some v) none
      else { s with utx := { s.utx with baud := BitVec.ofNat 16 v.toNat } }) ∧
    exec (.stUtxFrame v) s = .next (
      if s.clk.utx = false then s.withFault .clockGated (s.params.utxBase + 0x08#32) 4 .write (some v) none
      else if 256 ≤ v.toNat then s.withFault .reservedBits (s.params.utxBase + 0x08#32) 4 .write (some v) none
      else if s.utx.en = true then
        s.withFault .configWhileEnabled (s.params.utxBase + 0x08#32) 4 .write (some v) none
      else if v.toNat ≠ 8 then
        s.withFault .unsupportedConfig (s.params.utxBase + 0x08#32) 4 .write (some v) none
      else { s with utx := { s.utx with frame := 8#8 } })

/-- R136, with the check that comes before it (F01). -/
def Obligations.UtxDataWrite : Prop :=
  ∀ (v : Word) (s : State), s.fault = none →
    decode (.acc 0xA00C#16 v) = .ok (.stUtxData v) ∧
    exec (.stUtxData v) s = .next (
      if s.clk.utx = false then s.withFault .clockGated (s.params.utxBase + 0x0C#32) 4 .write (some v) none
      else if 65536 ≤ v.toNat then
        s.withFault .reservedBits (s.params.utxBase + 0x0C#32) 4 .write (some v) none
      else if s.utx.en = false then
        s.withFault .notEnabled (s.params.utxBase + 0x0C#32) 4 .write (some v) none
      else if s.utx.tdr ≠ none then
        s.withFault .tdrOverwrite (s.params.utxBase + 0x0C#32) 4 .write (some v) none
      else { s with utx := { s.utx with tdr := some (BitVec.ofNat 8 (v.toNat % 256)), tc := false } })

/-- R138 and R139: each of TX's two steps when it is enabled; TX's turn changes UTX only then. -/
def Obligations.TransmitterSteps : Prop :=
  ∀ s : State, s.choice.turn = .tx →
    (∀ x, s.fault = none → s.utx.en = true → s.utx.tdr = some x → s.utx.shift = none →
      step s = .next (State.refresh { s with utx := { s.utx with shift := some x, tdr := none } })) ∧
    (∀ x, s.fault = none → s.utx.shift = some x →
      step s = .next (State.refresh { s with
        utx := { s.utx with
          lineTrace := s.utx.lineTrace ++ [x], shift := none,
          tc := if s.utx.tdr = none then true else s.utx.tc } })) ∧
    (∀ t, step s = .next t →
      t = { s.refresh with utx := t.utx } ∧
      (t.utx ≠ s.utx → s.fault = none ∧
        ((s.utx.en = true ∧ s.utx.tdr ≠ none ∧ s.utx.shift = none) ∨ s.utx.shift ≠ none)))

/-- An agent whose step is not enabled (00_scope section 4): its turn changes nothing but the free values. That such a
turn is a step of the machine at all is the model's choice (log 2). -/
def Obligations.DisabledTurnChangesNothing : Prop :=
  ∀ s : State, s.fault = none →
    (s.choice.turn = .engine → s.i2cm.busy = false ∨ s.choice.release = false → step s = .next s.refresh) ∧
    (s.choice.turn = .tx → s.utx.shift = none → s.utx.en = false ∨ s.utx.tdr = none → step s = .next s.refresh) ∧
    (s.choice.turn = .host → s.hostAtEnd → step s = .next s.refresh)

/-- Completion of the CLK unit's instructions, 40_clock_control (R103, R104): where nothing faults. -/
def Obligations.ClkInstructionsComplete : Prop :=
  (∀ s : State, s.fault = none → exec .ldClkClken s = .next { s with readData := clkenWord s.clk }) ∧
  (∀ (a b : Bool) (s : State), s.fault = none → (a = false → s.i2cm.en = false) → (b = false → s.utx.en = false) →
    exec (.stClkClken (BitVec.ofNat 32 (2 * b.toNat + a.toNat))) s =
      .next { s with clk := { i2c := a, utx := b } })

/-- Completion of I2CM's register instructions, 41_i2c_config: where nothing faults. -/
def Obligations.I2cmRegisterInstructionsComplete : Prop :=
  ∀ s : State, s.fault = none → s.clk.i2c = true →
    exec .ldI2cmCtrl s = .next { s with readData := s.readable.i2cmCtrl } ∧
    exec .ldI2cmClkdiv s = .next { s with readData := s.readable.clkdiv } ∧
    exec .ldI2cmOwnaddr s = .next { s with readData := s.readable.ownaddr } ∧
    exec .ldI2cmStatus s = .next { s with readData := s.readable.i2cmStatus } ∧
    (∀ b, s.i2cm.rxdata = some b → exec .ldI2cmRxdata s = .next { s with readData := b.setWidth 32 }) ∧
    (s.i2cm.en = false → s.i2cm.clkdiv ≠ 0#16 → s.params.pinsRoutedI2c = true →
      exec (.stI2cmCtrl 1#32) s =
        .next { s with i2cm := { s.i2cm with en := true, phase := .idle, ack := false, nackf := false } }) ∧
    (s.i2cm.en = true → s.i2cm.busy = false → s.i2cm.phase = .idle ∨ s.i2cm.phase = .stopped →
      exec (.stI2cmCtrl 0#32) s = .next { s with i2cm := { s.i2cm with en := false } }) ∧
    (∀ d : BitVec 16, s.i2cm.en = false →
      exec (.stI2cmClkdiv (d.setWidth 32)) s = .next { s with i2cm := { s.i2cm with clkdiv := d } }) ∧
    (∀ a : BitVec 7, s.i2cm.en = false →
      exec (.stI2cmOwnaddr (a.setWidth 32)) s = .next { s with i2cm := { s.i2cm with ownaddr := a } })

/-- Completion of the commands at their step, 42_i2c_commands sections 1 and 2: each is accepted in the phases its issue
condition names, when I2CM is clocked and enabled with no command pending. The first clause is `st I2CM.CMD` itself, for
every command word. -/
def Obligations.CommandsAreAccepted : Prop :=
  ∀ s : State, s.fault = none → s.clk.i2c = true → s.i2cm.en = true → s.i2cm.busy = false →
    (∀ (op : CmdOp) (b : Byte), legal s.i2cm.phase s.i2cm.nackf op = none → (op.hasOperand = false → b = 0#8) →
      exec (.stI2cmCmd (cmdWord op.code b)) s =
        .next { s with i2cm := { s.i2cm with pending := some (op.command b), busy := true } }) ∧
    (s.i2cm.phase = .idle ∨ s.i2cm.phase = .stopped →
      exec .i2cStart s = .next { s with i2cm := { s.i2cm with pending := some .start, busy := true } }) ∧
    (∀ (a7 : BitVec 7) (dir : Direction), s.i2cm.phase = .started →
      exec (.i2cAddr a7 dir) s =
        .next { s with i2cm := { s.i2cm with pending := some (.addr (addrByte a7 dir)), busy := true } }) ∧
    (∀ d : Byte, s.i2cm.phase = .addrW ∨ s.i2cm.phase = .dataW → s.i2cm.nackf = false →
      exec (.i2cWrite d) s = .next { s with i2cm := { s.i2cm with pending := some (.write d), busy := true } }) ∧
    (s.i2cm.phase = .addrR ∨ s.i2cm.phase = .dataR → s.i2cm.nackf = false →
      exec .i2cReadAck s = .next { s with i2cm := { s.i2cm with pending := some .readAck, busy := true } } ∧
      exec .i2cReadNack s = .next { s with i2cm := { s.i2cm with pending := some .readNack, busy := true } }) ∧
    ((s.i2cm.phase = .addrW ∨ s.i2cm.phase = .dataW ∨ s.i2cm.phase = .dataRLast) ∨
        (s.i2cm.phase = .addrR ∧ s.i2cm.nackf = true) →
      exec .i2cStop s = .next { s with i2cm := { s.i2cm with pending := some .stop, busy := true } })

/-- Completion of UTX's instructions, 43_uart_tx sections 1 and 2: where nothing faults. -/
def Obligations.UtxInstructionsComplete : Prop :=
  ∀ s : State, s.fault = none → s.clk.utx = true →
    exec .ldUtxCtrl s = .next { s with readData := s.readable.utxCtrl } ∧
    exec .ldUtxBaud s = .next { s with readData := s.readable.baud } ∧
    exec .ldUtxFrame s = .next { s with readData := s.readable.frame } ∧
    exec .ldUtxStatus s = .next { s with readData := s.readable.utxStatus } ∧
    (s.utx.en = false → s.utx.baud ≠ 0#16 → s.params.pinsRoutedUtx = true →
      exec (.stUtxCtrl 1#32) s = .next { s with utx := { s.utx with en := true } }) ∧
    (s.utx.en = true → s.utx.tdr = none → s.utx.shift = none →
      exec (.stUtxCtrl 0#32) s = .next { s with utx := { s.utx with en := false } }) ∧
    (∀ d : BitVec 16, s.utx.en = false →
      exec (.stUtxBaud (d.setWidth 32)) s = .next { s with utx := { s.utx with baud := d } }) ∧
    (s.utx.en = false → exec (.stUtxFrame 8#32) s = .next { s with utx := { s.utx with frame := 8#8 } }) ∧
    (∀ hi lo : Byte, s.utx.en = true → s.utx.tdr = none →
      exec (.stUtxData (0#16 ++ hi ++ lo)) s =
        .next { s with utx := { s.utx with tdr := some lo, tc := false } })

/-- 70_reset_and_hazards section 1 (R178), which the spec marks as derived from its own rules, for every platform: the
words a host would read after reset, the hidden elements, and F01 on every instruction of I2CM and UTX before CLKEN is
written. -/
def Obligations.ResetWords : Prop :=
  ∀ p : Params,
    (State.resetWith p).readable =
      { clken := 0x00000000#32, i2cmCtrl := 0x00000000#32, clkdiv := 0x00000000#32, ownaddr := 0x00000000#32,
        i2cmStatus := 0x00000000#32, rxdata := none, utxCtrl := 0x00000000#32, baud := 0x00000000#32,
        frame := 0x00000008#32, utxStatus := 0x00000003#32 } ∧
    (State.resetWith p).i2cm.pending = none ∧ (State.resetWith p).utx.tdr = none ∧
    (State.resetWith p).utx.shift = none ∧ (State.resetWith p).i2cm.busTrace = [] ∧
    (State.resetWith p).utx.lineTrace = [] ∧ (State.resetWith p).fault = none ∧
    exec .ldI2cmRxdata { State.resetWith p with clk := { i2c := true, utx := true } } =
      .next (State.withFault .unwrittenRead (p.i2cmBase + 0x14#32) 4 .read none none
        { State.resetWith p with clk := { i2c := true, utx := true } }) ∧
    (∀ i : Instr, instrUnit i ≠ .clk →
      ∃ t f, exec i (State.resetWith p) = .next t ∧ t.fault = some f ∧ f.code = .clockGated)

/-- The invariants hold after reset (10_state section 5). -/
def Obligations.ResetMeetsInvariants : Prop :=
  ∀ p : Params, (State.resetWith p).Inv ∧ (State.resetWith p).traceWellFormed

/-- 10_state section 5: every step keeps the invariants of R44 (with the two facts that make them inductive), from every
state that meets them. -/
def Obligations.StepKeepsInvariants : Prop :=
  ∀ s t : State, s.Inv → step s = .next t → t.Inv

/-- 10_state section 5 (R44), which the spec marks as derived from its own rules: the six invariants hold in every
reachable state with FAULT = none. -/
def Obligations.ReachableStatesMeetRuleInvariants : Prop :=
  ∀ (p : Params) (s : State), Reachable p s → s.fault = none → s.ruleInv

/-- 42_i2c_commands section 1: every step keeps BUS_TRACE a sequence of whole transactions of the grammar and at most one
unfinished one, which PHASE and NACKF stand for. -/
def Obligations.StepKeepsTransactionGrammar : Prop :=
  ∀ s t : State, s.Inv → s.traceWellFormed → step s = .next t → t.traceWellFormed

/-- 42_i2c_commands section 3, the read law, over the grammar BUS_TRACE keeps: after a read address that SLAVE
acknowledged, the events up to STOP are bytes the master ACKed and then exactly one it NACKed. -/
def Obligations.ReadLaw : Prop :=
  ∀ (es : List BusEvent) (q : Phase × Bool),
    BusEvent.stop ∉ es → grammarRun (.addrR, false) (es ++ [.stop]) = some q →
    q = (.stopped, false) ∧
      ∃ (ds : List Byte) (d : Byte), es = ds.map (fun b => BusEvent.byteIn b true) ++ [.byteIn d false]

/-- 42_i2c_commands section 3, the write law, over the grammar BUS_TRACE keeps: after a write address that SLAVE
acknowledged, the events up to STOP are data bytes that SLAVE acknowledged, but for a last one it may have NACKed. -/
def Obligations.WriteLaw : Prop :=
  ∀ (es : List BusEvent) (q : Phase × Bool),
    BusEvent.stop ∉ es → grammarRun (.addrW, false) (es ++ [.stop]) = some q →
    (q = (.stopped, false) ∧ ∃ ds : List Byte, es = ds.map (fun b => BusEvent.byteOut b true)) ∨
      (q = (.stopped, true) ∧
        ∃ (ds : List Byte) (d : Byte), es = ds.map (fun b => BusEvent.byteOut b true) ++ [.byteOut d false])

/-- 43_uart_tx sections 2 and 3: no byte is lost, doubled or reordered on its way to the line. A DATA write adds its low
byte behind the bytes UTX holds; every other instruction, and every turn of ENGINE or TX, leaves the bytes and their
order as they are. -/
def Obligations.UtxBytesInOrder : Prop :=
  (∀ (i : Instr) (s t : State), exec i s = .next t → t.fault = none →
    t.utx.stream = s.utx.stream ++ instrDataBytes i) ∧
  (∀ s t : State, s.choice.turn ≠ .host → step s = .next t → t.utx.stream = s.utx.stream)

/-- 43_uart_tx section 3: three turns of TX empty an enabled transmitter: every byte it held is on LINE_TRACE, in order,
and TC is set. -/
def Obligations.TransmitterDrains : Prop :=
  ∀ s : State, s.Inv → s.utx.en = true →
    (txStep (txStep (txStep s))).utx.lineTrace = s.utx.stream ∧
    (txStep (txStep (txStep s))).utx.tdr = none ∧ (txStep (txStep (txStep s))).utx.shift = none ∧
    (txStep (txStep (txStep s))).utx.tc = true

/-- 10_state section 3: RXDATA is the last byte received, at every step: none before the first one. -/
def Obligations.RxdataIsLastByteIn : Prop :=
  ∀ s t : State, s.i2cm.rxdata = lastByteIn s.i2cm.busTrace → step s = .next t →
    t.i2cm.rxdata = lastByteIn t.i2cm.busTrace

/-- 10_state sections 3 and 4: nothing is removed from the traces; only ENGINE appends to BUS_TRACE, only TX to
LINE_TRACE, and at most one element in a step. -/
def Obligations.TracesOnlyGrow : Prop :=
  ∀ s t : State, step s = .next t →
    (t.i2cm.busTrace = s.i2cm.busTrace ∨
      (s.choice.turn = .engine ∧ ∃ e, t.i2cm.busTrace = s.i2cm.busTrace ++ [e])) ∧
    (t.utx.lineTrace = s.utx.lineTrace ∨
      (s.choice.turn = .tx ∧ ∃ b, t.utx.lineTrace = s.utx.lineTrace ++ [b]))

/-- R163: once FAULT is set no agent has an enabled step and no access is made; such a state is no end of a run; FAULT is
clear after power-on reset, and no step clears it (no step there has a next state). -/
def Obligations.FaultIsSticky : Prop :=
  (∀ (s : State) (f : FaultRecord), s.fault = some f →
    (∀ t, step s ≠ .next t) ∧ (∀ (i : Instr) (t : State), exec i s ≠ .next t) ∧ ¬s.atEnd) ∧
  (∀ p : Params, (State.resetWith p).fault = none)

/-- R167: a fault records FAULT and has no other effect on the block, and the run stops there. -/
def Obligations.FaultHasNoOtherEffect : Prop :=
  (∀ (i : Instr) (s t : State) (f : FaultRecord), exec i s = .next t → t.fault = some f →
    s.fault = none ∧ t = { s with fault := some f }) ∧
  (∀ (s t : State) (f : FaultRecord), step s = .next t → t.fault = some f →
    s.fault = none ∧ t.clk = s.clk ∧ t.i2cm = s.i2cm ∧ t.utx = s.utx ∧ t.host.program = s.host.program ∧
    ∀ u, step t ≠ .next u)

/-- How the model writes a stopped run down: the host stays at the operation that faulted, with its registers as they
were (log 13, DESIGN CHOICE), and from then on every step and every access answers the fault's own name (log 5, DEDUCED
from 60_exceptions section 1). -/
def Obligations.FaultedRunStandsStill : Prop :=
  (∀ (s t : State) (f : FaultRecord), step s = .next t → t.fault = some f →
    t.host = s.host ∧ t.readData = s.readData) ∧
  (∀ (s : State) (f : FaultRecord), s.fault = some f →
    step s = .fault (.runStopped f.code) ∧ ∀ i : Instr, exec i s = .fault (.runStopped f.code))

/-- 60_exceptions section 2: ENGINE and TX never fault, so a fault is always that of a host access; the record holds the
phase exactly for F11 to F14. -/
def Obligations.OnlyHostAccessesFault : Prop :=
  ∀ (s t : State) (f : FaultRecord), step s = .next t → t.fault = some f →
    s.choice.turn = .host ∧ (∃ op, s.host.program[s.host.pc]? = some op ∧ op.isAccess = true) ∧
    f.phase = (if 11 ≤ f.code.number ∧ f.code.number ≤ 14 then some s.i2cm.phase else none)

/-- R67: a read changes no state of the block, and a second read of the register returns the same, whatever the host
did of its own in between and whatever the free values of the later step are (every step of a run takes new ones). -/
def Obligations.ReadsHaveNoSideEffect : Prop :=
  ∀ (i : Instr) (s t : State), i ∈ readInstrs → exec i s = .next t → t.fault = none →
    t = { s with readData := t.readData } ∧
    ∀ (h : HostState) (w : Word) (c : Choice) (k : Nat),
      exec i { s with host := h, readData := w, choice := c, tick := k } =
        .next { t with host := h, choice := c, tick := k }

/-- What an instruction leaves alone: the units whose window it does not access, the host agent, the parameters and the
free values; a read leaves every unit alone, its own too, and no instruction touches the traces. -/
def Obligations.InstructionFrame : Prop :=
  ∀ (i : Instr) (s t : State), exec i s = .next t →
    t.host = s.host ∧ t.params = s.params ∧ t.choice = s.choice ∧ t.tick = s.tick ∧
    (instrUnit i ≠ .clk → t.clk = s.clk) ∧
    (instrUnit i ≠ .i2cm → t.i2cm = s.i2cm) ∧
    (instrUnit i ≠ .utx → t.utx = s.utx) ∧
    (i ∈ readInstrs → t.clk = s.clk ∧ t.i2cm = s.i2cm ∧ t.utx = s.utx) ∧
    (i ∉ readInstrs → t.readData = s.readData) ∧
    t.i2cm.busTrace = s.i2cm.busTrace ∧ t.utx.lineTrace = s.utx.lineTrace ∧ t.utx.shift = s.utx.shift ∧
    t.i2cm.rxdata = s.i2cm.rxdata

/-- 42_i2c_commands section 1: a command changes nothing but PENDING and BUSY when it is issued, or nothing but FAULT. -/
def Obligations.CommandFrame : Prop :=
  ∀ (i : Instr) (s t : State),
    (∃ v, i = .stI2cmCmd v) ∨ i = .i2cStart ∨ (∃ a d, i = .i2cAddr a d) ∨ (∃ b, i = .i2cWrite b) ∨ i = .i2cReadAck ∨
      i = .i2cReadNack ∨ i = .i2cStop ∨ (∃ r, i = .reservedOp0 r) ∨ (∃ r, i = .reservedOp7 r) →
    exec i s = .next t →
    (∃ c, t = { s with i2cm := { s.i2cm with pending := some c, busy := true } } ∧
      s.i2cm.busy = false ∧ legal s.i2cm.phase s.i2cm.nackf c.op = none) ∨
    (∃ f, t = { s with fault := some f })

/-- How a step runs an instruction: HOST's turn at a host operation in encoded form that decodes to i is exec of i; then
the host goes to its next operation unless the access faulted (log 13), and the next free values are taken (log 2). -/
def Obligations.StepRunsDecodedInstruction : Prop :=
  ∀ (s : State) (e : Encoded) (i : Instr),
    s.fault = none → s.choice.turn = .host → s.host.program[s.host.pc]? = some (.encoded e) → decode e = .ok i →
    step s =
      match exec i s with
      | .next t =>
        .next (if t.fault = none then
          State.refresh { t with host := { t.host with pc := t.host.pc + 1 } } else t.refresh)
      | .fault r => .fault r
      | .refused r => .refused r

/-- 30_encoding section 6: `ld rd, U.REG` is MemRead at the register's address with its result in rd, and
`st U.REG, src` is MemWrite there. That a faulting access leaves rd and the program counter alone is the model's choice
(log 13). -/
def Obligations.LoadAndStoreAreAccesses : Prop :=
  ∀ (s : State) (r : RegName), s.fault = none → s.choice.turn = .host → s.params.basesWf = true →
    (∀ rd, s.host.program[s.host.pc]? = some (.ld rd r) →
      step s =
        match memAccess (s.params.base r.unit + r.off.setWidth 32) 4 .read 0#32 s with
        | .next t =>
          .next (if t.fault = none then
            State.refresh { t with host := { t.host with
              regs := t.host.regs.set rd t.readData, pc := t.host.pc + 1 } } else t.refresh)
        | .fault x => .fault x
        | .refused x => .refused x) ∧
    (∀ src, s.host.program[s.host.pc]? = some (.st r src) →
      step s =
        match memAccess (s.params.base r.unit + r.off.setWidth 32) 4 .write
            (match src with | .imm v => v | .reg q => s.host.regs[q]) s with
        | .next t =>
          .next (if t.fault = none then
            State.refresh { t with host := { t.host with pc := t.host.pc + 1 } } else t.refresh)
        | .fault x => .fault x
        | .refused x => .refused x)

/-- 30_encoding section 6: the host's own arithmetic and branches, on 32-bit unsigned values. That `dec` of 0 gives
0xFFFF_FFFF is the model's choice (log 26). -/
def Obligations.HostArithmetic : Prop :=
  ∀ s : State, s.fault = none → s.choice.turn = .host →
    (∀ rd rs n, s.host.program[s.host.pc]? = some (.shl rd rs n) →
      step s = .next (State.refresh { s with host := { s.host with
        regs := s.host.regs.set rd (BitVec.ofNat 32 (s.host.regs[rs].toNat * 2 ^ n)), pc := s.host.pc + 1 } })) ∧
    (∀ rd rs n, s.host.program[s.host.pc]? = some (.shr rd rs n) →
      step s = .next (State.refresh { s with host := { s.host with
        regs := s.host.regs.set rd (BitVec.ofNat 32 (s.host.regs[rs].toNat / 2 ^ n)), pc := s.host.pc + 1 } })) ∧
    (∀ rd rs rt, s.host.program[s.host.pc]? = some (.or rd rs rt) →
      step s = .next (State.refresh { s with host := { s.host with
        regs := s.host.regs.set rd (s.host.regs[rs] ||| s.host.regs[rt]), pc := s.host.pc + 1 } })) ∧
    (∀ rd rs imm, s.host.program[s.host.pc]? = some (.and rd rs imm) →
      step s = .next (State.refresh { s with host := { s.host with
        regs := s.host.regs.set rd (s.host.regs[rs] &&& imm), pc := s.host.pc + 1 } })) ∧
    (∀ rd imm, s.host.program[s.host.pc]? = some (.mov rd imm) →
      step s = .next (State.refresh { s with host := { s.host with
        regs := s.host.regs.set rd imm, pc := s.host.pc + 1 } })) ∧
    (∀ rd, s.host.program[s.host.pc]? = some (.dec rd) →
      step s = .next (State.refresh { s with host := { s.host with
        regs := s.host.regs.set rd (s.host.regs[rd] - 1#32), pc := s.host.pc + 1 } })) ∧
    (∀ rd target, s.host.program[s.host.pc]? = some (.bnz rd target) →
      step s = .next (State.refresh { s with host := { s.host with
        pc := if s.host.regs[rd].toNat ≠ 0 then target else s.host.pc + 1 } })) ∧
    (∀ rs val target, s.host.program[s.host.pc]? = some (.bne rs val target) →
      step s = .next (State.refresh { s with host := { s.host with
        pc := if s.host.regs[rs] = val then s.host.pc + 1 else target } })) ∧
    (∀ target, s.host.program[s.host.pc]? = some (.b target) →
      step s = .next (State.refresh { s with host := { s.host with pc := target } }))

/-- 70_reset_and_hazards section 4: an end of a run is final: whichever agent's turn it is, the step leaves the
observation, the whole block and the host as they are, and the next state is an end again. That there is a step is the
model's choice (log 2). -/
def Obligations.EndOfRunIsFinal : Prop :=
  ∀ s : State, s.atEnd → step s = .next s.refresh ∧ s.refresh.atEnd ∧ s.refresh.observation = s.observation

/-- 00_scope section 3: the launch parameters are constant for the whole run. 20_memory section 5: a store to a register
never changes a host instruction; the host's program is loaded from outside (log 7), and no step changes it. -/
def Obligations.ParametersAreConstant : Prop :=
  ∀ s t : State, step s = .next t → t.params = s.params ∧ t.host.program = s.host.program

/-- 30_encoding section 6 and 44_host_sequences sections 1 to 5: which pseudo-instructions can be transcribed. `init` and
`pollLoop` can where their immediates fit the host's 32 bits (log 21, DEDUCED), every other one on every platform and with
every host register; the registers `send` takes beside its operand are others than it and than each other (log 14, the
model's choice of registers). -/
def Obligations.PseudoInstructionsTranscribe : Prop :=
  ∀ (p : Params) (pos : Nat),
    (∀ i : Pseudo, i ≠ .init → i ≠ .pollLoop → i.transcribe p pos = some (i.expand p pos)) ∧
    (p.fPclk / p.fSclTarget < 2 ^ 32 → p.fPclk / p.baudRate < 2 ^ 32 →
      Pseudo.init.transcribe p pos = some (initOps p) ∧
      (p.delaySpin < 2 ^ 32 → Pseudo.pollLoop.transcribe p pos = some (pollLoopCode p pos))) ∧
    (∀ rs : Reg, [rs, sendRt rs, sendRh rs, sendRl rs].Nodup)

/-- 44_host_sequences section 3: under the sensor's assumption, ENGINE's turn completes the pending command with the
answers the assumption gives. Which read transactions n counts is the model's choice (log 27), hidden in `reads`. -/
def Obligations.SensorAnswers : Prop :=
  ∀ (value : Byte → Nat → BitVec 16) (s : State),
    SensorSlave value s → s.fault = none → s.choice.turn = .engine → s.i2cm.busy = true →
    let view := sensorView s.params.slaveAddr7 s.i2cm.busTrace
    s.params.slaveFair = true ∧
    (∀ c, s.i2cm.pending = some c → ∃ t, step s = .next t ∧ t.i2cm.busy = false) ∧
    (∀ b, s.i2cm.pending = some (.addr b) →
      ∃ t, step s = .next t ∧
        t.i2cm.busTrace = s.i2cm.busTrace ++ [.byteOut b (decide (b.toNat / 2 = s.params.slaveAddr7.toNat))]) ∧
    (∀ b, s.i2cm.pending = some (.write b) → view.addressed = some .write →
      ∃ t, step s = .next t ∧ t.i2cm.busTrace = s.i2cm.busTrace ++ [.byteOut b true]) ∧
    (∀ sel, s.i2cm.pending = some .readAck ∨ s.i2cm.pending = some .readNack → view.addressed = some .read →
      view.sel = some sel →
      (view.sent = 0 → ∃ t, step s = .next t ∧
        t.i2cm.rxdata = some (BitVec.ofNat 8 ((value sel view.reads).toNat / 256))) ∧
      (view.sent = 1 → ∃ t, step s = .next t ∧
        t.i2cm.rxdata = some (BitVec.ofNat 8 ((value sel view.reads).toNat % 256))))
end

