-- ==== Sys2Proof/Laws/State.lean ====
section
/-! SUPPORT. One lemma per field of State per update, each true by rfl, so that no proof unfolds a record update. -/

namespace Sys2Proof.Machine

@[simp] theorem State.raise_clk (c : FaultCode) (info : AccessInfo) (s : State) : (s.raise c info).clk = s.clk := rfl
@[simp] theorem State.raise_i2cm (c : FaultCode) (info : AccessInfo) (s : State) :
    (s.raise c info).i2cm = s.i2cm := rfl
@[simp] theorem State.raise_utx (c : FaultCode) (info : AccessInfo) (s : State) : (s.raise c info).utx = s.utx := rfl
@[simp] theorem State.raise_fault (c : FaultCode) (info : AccessInfo) (s : State) :
    (s.raise c info).fault =
      some { code := c, info := info, phase := if c.recordsPhase then some s.i2cm.phase else none } := rfl
@[simp] theorem State.raise_host (c : FaultCode) (info : AccessInfo) (s : State) :
    (s.raise c info).host = s.host := rfl
@[simp] theorem State.raise_readData (c : FaultCode) (info : AccessInfo) (s : State) :
    (s.raise c info).readData = s.readData := rfl
@[simp] theorem State.raise_params (c : FaultCode) (info : AccessInfo) (s : State) :
    (s.raise c info).params = s.params := rfl
@[simp] theorem State.raise_choice (c : FaultCode) (info : AccessInfo) (s : State) :
    (s.raise c info).choice = s.choice := rfl
@[simp] theorem State.raise_tick (c : FaultCode) (info : AccessInfo) (s : State) :
    (s.raise c info).tick = s.tick := rfl

@[simp] theorem State.refresh_clk (s : State) : s.refresh.clk = s.clk := rfl
@[simp] theorem State.refresh_i2cm (s : State) : s.refresh.i2cm = s.i2cm := rfl
@[simp] theorem State.refresh_utx (s : State) : s.refresh.utx = s.utx := rfl
@[simp] theorem State.refresh_fault (s : State) : s.refresh.fault = s.fault := rfl
@[simp] theorem State.refresh_host (s : State) : s.refresh.host = s.host := rfl
@[simp] theorem State.refresh_readData (s : State) : s.refresh.readData = s.readData := rfl
@[simp] theorem State.refresh_params (s : State) : s.refresh.params = s.params := rfl
@[simp] theorem State.refresh_choice (s : State) : s.refresh.choice = Config.choice s.tick := rfl
@[simp] theorem State.refresh_tick (s : State) : s.refresh.tick = s.tick + 1 := rfl

@[simp] theorem State.setReg_clk (rd : Reg) (v : Word) (s : State) : (s.setReg rd v).clk = s.clk := rfl
@[simp] theorem State.setReg_i2cm (rd : Reg) (v : Word) (s : State) : (s.setReg rd v).i2cm = s.i2cm := rfl
@[simp] theorem State.setReg_utx (rd : Reg) (v : Word) (s : State) : (s.setReg rd v).utx = s.utx := rfl
@[simp] theorem State.setReg_fault (rd : Reg) (v : Word) (s : State) : (s.setReg rd v).fault = s.fault := rfl
@[simp] theorem State.setReg_host (rd : Reg) (v : Word) (s : State) :
    (s.setReg rd v).host = { s.host with regs := s.host.regs.set rd v } := rfl
@[simp] theorem State.setReg_readData (rd : Reg) (v : Word) (s : State) : (s.setReg rd v).readData = s.readData := rfl
@[simp] theorem State.setReg_params (rd : Reg) (v : Word) (s : State) : (s.setReg rd v).params = s.params := rfl
@[simp] theorem State.setReg_choice (rd : Reg) (v : Word) (s : State) : (s.setReg rd v).choice = s.choice := rfl
@[simp] theorem State.setReg_tick (rd : Reg) (v : Word) (s : State) : (s.setReg rd v).tick = s.tick := rfl

@[simp] theorem State.jump_clk (k : Nat) (s : State) : (s.jump k).clk = s.clk := rfl
@[simp] theorem State.jump_i2cm (k : Nat) (s : State) : (s.jump k).i2cm = s.i2cm := rfl
@[simp] theorem State.jump_utx (k : Nat) (s : State) : (s.jump k).utx = s.utx := rfl
@[simp] theorem State.jump_fault (k : Nat) (s : State) : (s.jump k).fault = s.fault := rfl
@[simp] theorem State.jump_host (k : Nat) (s : State) : (s.jump k).host = { s.host with pc := k } := rfl
@[simp] theorem State.jump_readData (k : Nat) (s : State) : (s.jump k).readData = s.readData := rfl
@[simp] theorem State.jump_params (k : Nat) (s : State) : (s.jump k).params = s.params := rfl
@[simp] theorem State.jump_choice (k : Nat) (s : State) : (s.jump k).choice = s.choice := rfl
@[simp] theorem State.jump_tick (k : Nat) (s : State) : (s.jump k).tick = s.tick := rfl

@[simp] theorem State.advancePc_clk (s : State) : s.advancePc.clk = s.clk := rfl
@[simp] theorem State.advancePc_i2cm (s : State) : s.advancePc.i2cm = s.i2cm := rfl
@[simp] theorem State.advancePc_utx (s : State) : s.advancePc.utx = s.utx := rfl
@[simp] theorem State.advancePc_fault (s : State) : s.advancePc.fault = s.fault := rfl
@[simp] theorem State.advancePc_host (s : State) : s.advancePc.host = { s.host with pc := s.host.pc + 1 } := rfl
@[simp] theorem State.advancePc_readData (s : State) : s.advancePc.readData = s.readData := rfl
@[simp] theorem State.advancePc_params (s : State) : s.advancePc.params = s.params := rfl
@[simp] theorem State.advancePc_choice (s : State) : s.advancePc.choice = s.choice := rfl
@[simp] theorem State.advancePc_tick (s : State) : s.advancePc.tick = s.tick := rfl

@[simp] theorem accept_clk (c : Command) (s : State) : (accept c s).clk = s.clk := rfl
@[simp] theorem accept_i2cm (c : Command) (s : State) :
    (accept c s).i2cm = { s.i2cm with pending := some c, busy := true } := rfl
@[simp] theorem accept_utx (c : Command) (s : State) : (accept c s).utx = s.utx := rfl
@[simp] theorem accept_fault (c : Command) (s : State) : (accept c s).fault = s.fault := rfl
@[simp] theorem accept_host (c : Command) (s : State) : (accept c s).host = s.host := rfl
@[simp] theorem accept_readData (c : Command) (s : State) : (accept c s).readData = s.readData := rfl
@[simp] theorem accept_params (c : Command) (s : State) : (accept c s).params = s.params := rfl
@[simp] theorem accept_choice (c : Command) (s : State) : (accept c s).choice = s.choice := rfl
@[simp] theorem accept_tick (c : Command) (s : State) : (accept c s).tick = s.tick := rfl

@[simp] theorem txStep_clk (s : State) : (txStep s).clk = s.clk := rfl
@[simp] theorem txStep_i2cm (s : State) : (txStep s).i2cm = s.i2cm := rfl
@[simp] theorem txStep_utx (s : State) : (txStep s).utx = txUnitStep s.utx := rfl
@[simp] theorem txStep_fault (s : State) : (txStep s).fault = s.fault := rfl
@[simp] theorem txStep_host (s : State) : (txStep s).host = s.host := rfl
@[simp] theorem txStep_readData (s : State) : (txStep s).readData = s.readData := rfl
@[simp] theorem txStep_params (s : State) : (txStep s).params = s.params := rfl
@[simp] theorem txStep_choice (s : State) : (txStep s).choice = s.choice := rfl
@[simp] theorem txStep_tick (s : State) : (txStep s).tick = s.tick := rfl

@[simp] theorem placeNext_clk (op : HostOp) (s : State) : (placeNext op s).clk = s.clk := rfl
@[simp] theorem placeNext_i2cm (op : HostOp) (s : State) : (placeNext op s).i2cm = s.i2cm := rfl
@[simp] theorem placeNext_utx (op : HostOp) (s : State) : (placeNext op s).utx = s.utx := rfl
@[simp] theorem placeNext_fault (op : HostOp) (s : State) : (placeNext op s).fault = s.fault := rfl
@[simp] theorem placeNext_host (op : HostOp) (s : State) :
    (placeNext op s).host = { s.host with program := placeOp op s.host.pc s.host.program } := rfl
@[simp] theorem placeNext_readData (op : HostOp) (s : State) : (placeNext op s).readData = s.readData := rfl
@[simp] theorem placeNext_params (op : HostOp) (s : State) : (placeNext op s).params = s.params := rfl
@[simp] theorem placeNext_choice (op : HostOp) (s : State) :
    (placeNext op s).choice = { s.choice with turn := .host } := rfl
@[simp] theorem placeNext_tick (op : HostOp) (s : State) : (placeNext op s).tick = s.tick := rfl

@[simp] theorem State.loadProgram_clk (l : List HostOp) (s : State) : (s.loadProgram l).clk = s.clk := rfl
@[simp] theorem State.loadProgram_i2cm (l : List HostOp) (s : State) : (s.loadProgram l).i2cm = s.i2cm := rfl
@[simp] theorem State.loadProgram_utx (l : List HostOp) (s : State) : (s.loadProgram l).utx = s.utx := rfl
@[simp] theorem State.loadProgram_fault (l : List HostOp) (s : State) : (s.loadProgram l).fault = s.fault := rfl
@[simp] theorem State.loadProgram_host (l : List HostOp) (s : State) :
    (s.loadProgram l).host = { s.host with program := l, pc := 0 } := rfl
@[simp] theorem State.loadProgram_readData (l : List HostOp) (s : State) :
    (s.loadProgram l).readData = s.readData := rfl
@[simp] theorem State.loadProgram_params (l : List HostOp) (s : State) : (s.loadProgram l).params = s.params := rfl
@[simp] theorem State.loadProgram_choice (l : List HostOp) (s : State) : (s.loadProgram l).choice = s.choice := rfl
@[simp] theorem State.loadProgram_tick (l : List HostOp) (s : State) : (s.loadProgram l).tick = s.tick := rfl

@[simp] theorem State.withChoice_clk (c : Choice) (s : State) : (s.withChoice c).clk = s.clk := rfl
@[simp] theorem State.withChoice_i2cm (c : Choice) (s : State) : (s.withChoice c).i2cm = s.i2cm := rfl
@[simp] theorem State.withChoice_utx (c : Choice) (s : State) : (s.withChoice c).utx = s.utx := rfl
@[simp] theorem State.withChoice_fault (c : Choice) (s : State) : (s.withChoice c).fault = s.fault := rfl
@[simp] theorem State.withChoice_host (c : Choice) (s : State) : (s.withChoice c).host = s.host := rfl
@[simp] theorem State.withChoice_readData (c : Choice) (s : State) : (s.withChoice c).readData = s.readData := rfl
@[simp] theorem State.withChoice_params (c : Choice) (s : State) : (s.withChoice c).params = s.params := rfl
@[simp] theorem State.withChoice_choice (c : Choice) (s : State) : (s.withChoice c).choice = c := rfl
@[simp] theorem State.withChoice_tick (c : Choice) (s : State) : (s.withChoice c).tick = s.tick := rfl

@[simp] theorem State.withFault_clk (c : FaultCode) (a : Word) (n : Nat) (d : Direction) (v : Option Word)
    (ph : Option Phase) (s : State) :
    (s.withFault c a n d v ph).clk =
      s.clk := rfl
@[simp] theorem State.withFault_i2cm (c : FaultCode) (a : Word) (n : Nat) (d : Direction) (v : Option Word)
    (ph : Option Phase) (s : State) :
    (s.withFault c a n d v ph).i2cm =
      s.i2cm := rfl
@[simp] theorem State.withFault_utx (c : FaultCode) (a : Word) (n : Nat) (d : Direction) (v : Option Word)
    (ph : Option Phase) (s : State) :
    (s.withFault c a n d v ph).utx =
      s.utx := rfl
@[simp] theorem State.withFault_fault (c : FaultCode) (a : Word) (n : Nat) (d : Direction) (v : Option Word)
    (ph : Option Phase) (s : State) :
    (s.withFault c a n d v ph).fault =
      some { code := c, info := { addr := a, width := n, dir := d, value := v }, phase := ph } := rfl
@[simp] theorem State.withFault_host (c : FaultCode) (a : Word) (n : Nat) (d : Direction) (v : Option Word)
    (ph : Option Phase) (s : State) :
    (s.withFault c a n d v ph).host =
      s.host := rfl
@[simp] theorem State.withFault_readData (c : FaultCode) (a : Word) (n : Nat) (d : Direction) (v : Option Word)
    (ph : Option Phase) (s : State) :
    (s.withFault c a n d v ph).readData =
      s.readData := rfl
@[simp] theorem State.withFault_params (c : FaultCode) (a : Word) (n : Nat) (d : Direction) (v : Option Word)
    (ph : Option Phase) (s : State) :
    (s.withFault c a n d v ph).params =
      s.params := rfl
@[simp] theorem State.withFault_choice (c : FaultCode) (a : Word) (n : Nat) (d : Direction) (v : Option Word)
    (ph : Option Phase) (s : State) :
    (s.withFault c a n d v ph).choice =
      s.choice := rfl
@[simp] theorem State.withFault_tick (c : FaultCode) (a : Word) (n : Nat) (d : Direction) (v : Option Word)
    (ph : Option Phase) (s : State) :
    (s.withFault c a n d v ph).tick =
      s.tick := rfl

@[simp] theorem State.resetWith_clk (p : Params) : (State.resetWith p).clk = .reset := rfl
@[simp] theorem State.resetWith_i2cm (p : Params) : (State.resetWith p).i2cm = .reset := rfl
@[simp] theorem State.resetWith_utx (p : Params) : (State.resetWith p).utx = .reset := rfl
@[simp] theorem State.resetWith_fault (p : Params) : (State.resetWith p).fault = none := rfl
@[simp] theorem State.resetWith_host (p : Params) : (State.resetWith p).host = .reset := rfl
@[simp] theorem State.resetWith_readData (p : Params) : (State.resetWith p).readData = 0#32 := rfl
@[simp] theorem State.resetWith_params (p : Params) : (State.resetWith p).params = p := rfl
@[simp] theorem State.resetWith_choice (p : Params) : (State.resetWith p).choice = resetChoice := rfl
@[simp] theorem State.resetWith_tick (p : Params) : (State.resetWith p).tick = 0 := rfl

end Sys2Proof.Machine
end

