-- ==== Sys2Proof/Laws/Ops.lean ====
section
/-! SUPPORT. What each shared operation can do, said once: the provers cite these and do not unfold the operations. -/

namespace Sys2Proof.Machine

theorem whileRunning_running {s : State} {o : Host.Outcome State Fault Refusal} (h : s.fault = none) :
    whileRunning s o = o := by
  simp [whileRunning, h]

theorem whileRunning_stopped {s : State} {f : FaultRecord} {o : Host.Outcome State Fault Refusal}
    (h : s.fault = some f) : whileRunning s o = .fault (.runStopped f.code) := by
  simp [whileRunning, h]

theorem whileRunning_next {s t : State} {o : Host.Outcome State Fault Refusal} (h : whileRunning s o = .next t) :
    s.fault = none ∧ o = .next t := by
  unfold whileRunning at h
  split at h
  · cases h
  · exact ⟨‹_›, h⟩

theorem State.raise_eq (c : FaultCode) (info : AccessInfo) (s : State) :
    s.raise c info =
      s.withFault c info.addr info.width info.dir info.value (if c.recordsPhase then some s.i2cm.phase else none) :=
  rfl

theorem conclude_ok (info : AccessInfo) (s t : State) : conclude info s (.ok t) = t := rfl

theorem conclude_error (info : AccessInfo) (s : State) (c : FaultCode) : conclude info s (.error c) = s.raise c info :=
  rfl

/-- An access while the run goes on and the unit's clock is on ends as the register's pseudocode does. -/
theorem hostAccess_clocked {r : RegName} {d : Direction} {v : Option Word} {body : Except FaultCode State} {s : State}
    (hf : s.fault = none) (hg : s.gated r.unit = false) :
    hostAccess r d v body s = .next (conclude (accessInfo r d v s) s body) := by
  simp [hostAccess, whileRunning_running hf, hg]

/-- An access to a gated unit raises F01. -/
theorem hostAccess_gated {r : RegName} {d : Direction} {v : Option Word} {body : Except FaultCode State} {s : State}
    (hf : s.fault = none) (hg : s.gated r.unit = true) :
    hostAccess r d v body s = .next (s.raise .clockGated (accessInfo r d v s)) := by
  simp [hostAccess, whileRunning_running hf, hg]

/-- Whatever an access answers, the run had not stopped, and the access was raised as a fault or its body succeeded. -/
theorem hostAccess_next {r : RegName} {d : Direction} {v : Option Word} {body : Except FaultCode State} {s t : State}
    (h : hostAccess r d v body s = .next t) :
    s.fault = none ∧
      ((∃ c, t = s.raise c (accessInfo r d v s) ∧ (c = .clockGated ∨ body = .error c)) ∨
        (s.gated r.unit = false ∧ body = .ok t)) := by
  obtain ⟨hf, h⟩ := whileRunning_next h
  refine ⟨hf, ?_⟩
  cases hg : s.gated r.unit
  · cases body with
    | ok u => right; simp_all [conclude]
    | error c => left; exact ⟨c, by simp_all [conclude]⟩
  · left; exact ⟨.clockGated, by simp_all⟩

theorem hostRead_next {r : RegName} {result : Except FaultCode Word} {s t : State}
    (h : hostRead r result s = .next t) :
    s.fault = none ∧
      ((∃ c, t = s.raise c (accessInfo r .read none s) ∧ (c = .clockGated ∨ result = .error c)) ∨
        (s.gated r.unit = false ∧ ∃ w, result = .ok w ∧ t = { s with readData := w })) := by
  obtain ⟨hf, h⟩ := hostAccess_next h
  refine ⟨hf, ?_⟩
  rcases h with ⟨c, ht, hc⟩ | ⟨hg, hb⟩
  · cases result with
    | ok w => exact .inl ⟨c, ht, .inl (by simpa [Except.map] using hc)⟩
    | error e => exact .inl ⟨c, ht, hc.imp_right (by simp [Except.map])⟩
  · cases result with
    | ok w => exact .inr ⟨hg, w, rfl, by simpa [Except.map] using hb.symm⟩
    | error e => cases hb

theorem hostWrite_next {r : RegName} {v : Word} {body : Except FaultCode State} {s t : State}
    (h : hostWrite r v body s = .next t) :
    s.fault = none ∧
      ((∃ c, t = s.raise c (accessInfo r .write (some v) s) ∧ (c = .clockGated ∨ body = .error c)) ∨
        (s.gated r.unit = false ∧ body = .ok t)) :=
  hostAccess_next h

/-- A read that is not stopped gives its result to the host and changes nothing else. -/
theorem hostRead_clocked {r : RegName} {w : Word} {s : State} (hf : s.fault = none) (hg : s.gated r.unit = false) :
    hostRead r (.ok w) s = .next { s with readData := w } :=
  hostAccess_clocked hf hg

/-- A write that is not stopped ends as its pseudocode does. -/
theorem hostWrite_clocked {r : RegName} {v : Word} {body : Except FaultCode State} {s : State} (hf : s.fault = none)
    (hg : s.gated r.unit = false) :
    hostWrite r v body s = .next (conclude (accessInfo r .write (some v) s) s body) :=
  hostAccess_clocked hf hg

theorem clkenWrite_ok {v : Word} {s t : State} (h : clkenWrite v s = .ok t) :
    t = { s with clk := { i2c := v.getLsbD 0, utx := v.getLsbD 1 } } ∧
      (v.getLsbD 0 = false → s.i2cm.en = false) ∧ (v.getLsbD 1 = false → s.utx.en = false) := by
  unfold clkenWrite at h
  split at h <;> (try cases h)
  split at h <;> (try cases h)
  split at h <;> (try cases h)
  simp_all

theorem i2cmCtrlWrite_ok {v : Word} {s t : State} (h : i2cmCtrlWrite v s = .ok t) :
    t = s ∨
      (s.i2cm.en = false ∧ s.i2cm.clkdiv ≠ 0#16 ∧
        t = { s with i2cm := { s.i2cm with en := true, phase := .idle, ack := false, nackf := false } }) ∨
      (s.i2cm.en = true ∧ s.i2cm.busy = false ∧ s.i2cm.phase.atRest = true ∧
        t = { s with i2cm := { s.i2cm with en := false } }) := by
  unfold i2cmCtrlWrite at h
  split at h
  · cases h
  · split at h
    · split at h
      · cases h
      · split at h <;> cases h
        simp_all
    · split at h <;> cases h
      simp_all
    · cases h; exact .inl rfl
    · cases h; exact .inl rfl

theorem i2cmClkdivWrite_ok {v : Word} {s t : State} (h : i2cmClkdivWrite v s = .ok t) :
    s.i2cm.en = false ∧ t = { s with i2cm := { s.i2cm with clkdiv := divField v } } := by
  unfold i2cmClkdivWrite at h
  split at h <;> (try cases h)
  split at h <;> cases h
  simp_all

theorem i2cmOwnaddrWrite_ok {v : Word} {s t : State} (h : i2cmOwnaddrWrite v s = .ok t) :
    s.i2cm.en = false ∧ t = { s with i2cm := { s.i2cm with ownaddr := ownaddrField v } } := by
  unfold i2cmOwnaddrWrite at h
  split at h <;> (try cases h)
  split at h <;> cases h
  simp_all

theorem utxCtrlWrite_ok {v : Word} {s t : State} (h : utxCtrlWrite v s = .ok t) :
    t = s ∨
      (s.utx.en = false ∧ s.utx.baud ≠ 0#16 ∧ t = { s with utx := { s.utx with en := true } }) ∨
      (s.utx.en = true ∧ s.utx.tdr = none ∧ s.utx.shift = none ∧
        t = { s with utx := { s.utx with en := false } }) := by
  unfold utxCtrlWrite at h
  split at h
  · cases h
  · split at h
    · split at h
      · cases h
      · split at h <;> cases h
        simp_all
    · split at h <;> cases h
      simp_all
    · cases h; exact .inl rfl
    · cases h; exact .inl rfl

theorem utxBaudWrite_ok {v : Word} {s t : State} (h : utxBaudWrite v s = .ok t) :
    s.utx.en = false ∧ t = { s with utx := { s.utx with baud := divField v } } := by
  unfold utxBaudWrite at h
  split at h <;> (try cases h)
  split at h <;> cases h
  simp_all

theorem utxFrameWrite_ok {v : Word} {s t : State} (h : utxFrameWrite v s = .ok t) :
    s.utx.en = false ∧ t = { s with utx := { s.utx with frame := 0x08#8 } } := by
  unfold utxFrameWrite at h
  split at h <;> (try cases h)
  split at h <;> (try cases h)
  split at h <;> cases h
  simp_all

theorem utxDataWrite_ok {v : Word} {s t : State} (h : utxDataWrite v s = .ok t) :
    s.utx.en = true ∧ s.utx.tdr = none ∧ t = { s with utx := { s.utx with tdr := some (lowByte v), tc := false } } := by
  unfold utxDataWrite at h
  split at h <;> (try cases h)
  split at h <;> (try cases h)
  split at h <;> cases h
  simp_all

/-- A command is accepted only when I2CM is enabled, no command is pending and the legality function says ok. -/
theorem cmdIssue_ok {v : Word} {s t : State} (h : cmdIssue v s = .ok t) :
    s.i2cm.en = true ∧ s.i2cm.busy = false ∧
      ∃ op, cmdOpOf (cmdOp v) = some op ∧ legal s.i2cm.phase s.i2cm.nackf op = none ∧
        t = accept (op.command (cmdByte v)) s := by
  unfold cmdIssue at h
  split at h <;> (try cases h)
  split at h <;> (try cases h)
  split at h <;> (try cases h)
  split at h
  · cases h
  · split at h <;> (try cases h)
    split at h <;> cases h
    simp_all

@[simp] theorem CmdOp.op_command (op : CmdOp) (b : Byte) : (op.command b).op = op := by cases op <;> rfl

@[simp] theorem cmdOpOf_code (op : CmdOp) : cmdOpOf op.code = some op := by cases op <;> rfl

theorem cmdOp_cmdWord (o : BitVec 3) (b : Byte) : cmdOp (cmdWord o b) = o := by
  revert o b; decide

theorem cmdByte_cmdWord (o : BitVec 3) (b : Byte) : cmdByte (cmdWord o b) = b := by
  revert o b; decide

theorem cmdReserved_cmdWord (o : BitVec 3) (b : Byte) : cmdReserved (cmdWord o b) = false := by
  revert o b; decide

/-- The faults of the legality function are F11 to F14, whose record holds PHASE. -/
theorem legal_recordsPhase {p : Phase} {n : Bool} {op : CmdOp} {c : FaultCode} (h : legal p n op = some c) :
    c.recordsPhase = true := by
  revert h; cases p <;> cases n <;> cases op <;> cases c <;> decide

/-- A command word without reserved bits, written to an enabled I2CM with no command pending: R117 decides. -/
theorem commandWrite_ready {op : CmdOp} {b : Byte} {s : State} (hf : s.fault = none) (hc : s.clk.i2c = true)
    (he : s.i2cm.en = true) (hb : s.i2cm.busy = false) (h0 : op.hasOperand = false → b = 0#8) :
    commandWrite (cmdWord op.code b) s = .next
      (match legal s.i2cm.phase s.i2cm.nackf op with
      | some c => s.raise c (accessInfo .i2cmCmd .write (some (cmdWord op.code b)) s)
      | none => accept (op.command b) s) := by
  have hg : s.gated RegName.i2cmCmd.unit = false := by simp [RegName.unit, State.gated, hc]
  have h1 : (!op.hasOperand && b != 0#8) = false := by
    cases ho : op.hasOperand
    · simp [h0 ho]
    · rfl
  rw [commandWrite, hostWrite_clocked hf hg]
  simp only [cmdIssue, cmdReserved_cmdWord, he, hb, cmdOp_cmdWord, cmdByte_cmdWord, cmdOpOf_code, h1]
  cases legal s.i2cm.phase s.i2cm.nackf op <;> rfl

/-- ENGINE's turn: nothing, or the completion of the pending command. -/
theorem engineStep_cases (s : State) :
    engineStep s = s ∨
      (s.i2cm.busy = true ∧ s.choice.release = true ∧ ∃ c, s.i2cm.pending = some c ∧
        engineStep s = { s with i2cm := completion c s.choice.ack s.choice.byte s.i2cm }) := by
  unfold engineStep
  split
  · right; simp_all
  · exact .inl rfl
  · exact .inl rfl

/-- TX's turn: nothing, the load step, or the shift-out step. -/
theorem txUnitStep_cases (u : UtxState) :
    (txUnitStep u = u ∧ u.shift = none ∧ (u.tdr = none ∨ u.en = false)) ∨
      (∃ x, u.en = true ∧ u.tdr = some x ∧ u.shift = none ∧ txUnitStep u = txLoad x u) ∨
      (∃ x, u.shift = some x ∧ txUnitStep u = txShiftOut x u) := by
  unfold txUnitStep
  split
  · simp_all
  · split <;> simp_all
  · simp_all

/-- What a completion leaves alone: I2CM's configuration. It ends the command, and one wire event is emitted. -/
theorem completion_frame (c : Command) (a : Bool) (d : Byte) (m : I2cmState) :
    (completion c a d m).en = m.en ∧ (completion c a d m).clkdiv = m.clkdiv ∧
      (completion c a d m).ownaddr = m.ownaddr ∧ (completion c a d m).busy = false ∧
      (completion c a d m).pending = none ∧ ∃ e, (completion c a d m).busTrace = m.busTrace ++ [e] := by
  cases c <;>
    simp [completion, completeCommand, completeStart, completeAddr, completeWrite, completeReadAck, completeReadNack,
      completeStop, I2cmState.emit]

/-- An operation that makes an access ends in the access's fault, or in its result and the next operation. -/
theorem afterAccess_next {own : State → State} {o : Host.Outcome State Fault Refusal} {t : State}
    (h : afterAccess own o = .next t) :
    ∃ u, o = .next u ∧
      ((u.fault ≠ none ∧ t = u.refresh) ∨ (u.fault = none ∧ t = (own u).advancePc.refresh)) := by
  cases o with
  | next u =>
    refine ⟨u, rfl, ?_⟩
    simp only [afterAccess, Host.Outcome.next.injEq] at h
    cases hf : u.fault <;> simp_all
  | fault r => cases h
  | refused r => cases h

/-- A step that answers a next state is a step of the agent whose turn it is, in a run that has not stopped. -/
theorem step_next {s t : State} (h : step s = .next t) :
    s.fault = none ∧
      ((s.choice.turn = .host ∧ hostStep s = .next t) ∨
        (s.choice.turn = .engine ∧ t = (engineStep s).refresh) ∨
        (s.choice.turn = .tx ∧ t = (txStep s).refresh)) := by
  obtain ⟨hf, h⟩ := whileRunning_next h
  refine ⟨hf, ?_⟩
  split at h <;> simp_all

end Sys2Proof.Machine
end

