-- ==== Sys2Proof/Laws/Access.lean ====
section
/-! SUPPORT. Where an access goes: the address of a register decodes to it, and a descriptor decodes to its fields. -/

namespace Sys2Proof.Machine

theorem windowAligned_iff (base : Word) : windowAligned base = true ↔ base.toNat % 256 = 0 := by
  simp [windowAligned, ← BitVec.toNat_inj, BitVec.extractLsb'_toNat]

theorem windowsApart_iff (a b : Word) : windowsApart a b = true ↔ a.toNat / 256 ≠ b.toNat / 256 := by
  have ha := a.isLt
  have hb := b.isLt
  simp only [windowsApart, bne_iff_ne, ne_eq, ← BitVec.toNat_inj, BitVec.extractLsb'_toNat, Nat.shiftRight_eq_div_pow]
  omega

theorem inWindow_iff (base addr : Word) :
    inWindow base addr = true ↔ base.toNat ≤ addr.toNat ∧ addr.toNat < base.toNat + 256 := by
  simp [inWindow]

/-- The address of an offset in a window, as a natural: nothing wraps. -/
theorem base_add_toNat {base : Word} (h : windowAligned base = true) (off : Byte) :
    (base + off.setWidth 32).toNat = base.toNat + off.toNat := by
  rw [windowAligned_iff] at h
  have := base.isLt
  have := off.isLt
  simp only [BitVec.toNat_add, BitVec.toNat_setWidth]
  omega

/-- R61 backwards: the address of an offset decodes to the window's unit and that offset. -/
theorem decodeAddr_base {p : Params} (h : p.basesWf = true) (u : BlockUnit) (off : Byte) :
    decodeAddr p (p.base u + off.setWidth 32) = some (u, off) := by
  have hoff := off.isLt
  simp only [Params.basesWf, Bool.and_eq_true, windowsApart_iff] at h
  obtain ⟨⟨⟨⟨⟨hc, hi⟩, hu⟩, hci⟩, hcu⟩, hiu⟩ := h
  have ec := base_add_toNat hc off
  have ei := base_add_toNat hi off
  have eu := base_add_toNat hu off
  rw [windowAligned_iff] at hc hi hu
  have hw : ∀ b : Word, (b + off.setWidth 32 - b).setWidth 8 = off := by
    intro b
    rw [add_sub_cancel_left]
    simp
  cases u <;> simp only [Params.base, decodeAddr, inWindow_iff, ec, ei, eu, hw]
  · rw [if_pos (by omega)]
  · rw [if_neg (by omega), if_pos (by omega)]
  · rw [if_neg (by omega), if_neg (by omega), if_pos (by omega)]

/-- The fields of a descriptor (R81). -/
theorem accDesc_fields (u : BlockUnit) (d : Direction) (off : Byte) :
    (accDesc u d off).extractLsb' 8 5 = 0#5 ∧ unitOfCode ((accDesc u d off).extractLsb' 14 2) = some u ∧
      (accDesc u d off).extractLsb' 0 8 = off ∧ accDirection (accDesc u d off) = d := by
  revert off
  cases u <;> cases d <;> decide

/-- Decoding of a descriptor that an access forms: the register at the offset, in the direction. -/
theorem decode_accDesc (u : BlockUnit) (d : Direction) (off : Byte) (v : Word) :
    decode (.acc (accDesc u d off) v) =
      match regAt u off with
      | none => .error (.unmapped u off)
      | some r => accInstr r d v := by
  obtain ⟨h1, h2, h3, h4⟩ := accDesc_fields u d off
  simp only [decode, decodeAcc, h1, h2, h3, h4]
  rfl

/-- Every register is found at its offset (R82 to R84). -/
theorem regAt_off (r : RegName) : regAt r.unit r.off = some r := by
  cases r <;> rfl

/-- R64 in arithmetic. -/
theorem badWidth_iff (addr : Word) (n : Nat) : badWidth addr n = true ↔ n ≠ 4 ∨ addr.toNat % 4 ≠ 0 := by
  simp [badWidth, ← BitVec.toNat_inj, BitVec.extractLsb'_toNat]

/-- An offset's address is aligned as the offset is. -/
theorem badWidth_base {p : Params} (h : p.basesWf = true) (u : BlockUnit) {off : Byte} (ho : off.toNat % 4 = 0) :
    badWidth (p.base u + off.setWidth 32) 4 = false := by
  have ha : windowAligned (p.base u) = true := by
    simp only [Params.basesWf, Bool.and_eq_true] at h
    cases u <;> simp_all [Params.base]
  have e := base_add_toNat ha off
  rw [windowAligned_iff] at ha
  rw [← Bool.not_eq_true, badWidth_iff, e]
  omega

/-- An aligned word access at an offset of a window is the access of its descriptor (R64 passed, R81). -/
theorem memAccess_base {s : State} (h : s.params.basesWf = true) (u : BlockUnit) {off : Byte} (ho : off.toNat % 4 = 0)
    (d : Direction) (v : Word) :
    memAccess (s.params.base u + off.setWidth 32) 4 d v s = performAccess (.acc (accDesc u d off) v) s := by
  simp only [memAccess, decodeAddr_base h, badWidth_base h u ho]
  rfl

end Sys2Proof.Machine
end

