-- ==== Sys2Proof/Laws/HostSequences.lean ====
section
/-! SUPPORT. The host sequences: which pseudo-instructions can be transcribed, the registers `send` takes, and what a
run with the sensor gives. -/

namespace Sys2Proof.Machine

theorem Pseudo.transcribe_of_wf {p : Params} {i : Pseudo} (h : i.wf p = true) (pos : Nat) :
    i.transcribe p pos = some (i.expand p pos) :=
  if_pos h

/-- The operand of `send` and its three scratch registers are four registers. -/
theorem send_registers_nodup (rs : Reg) : [rs, sendRt rs, sendRh rs, sendRl rs].Nodup := by
  revert rs; decide

/-- With the sensor, BUSY = 1 does not hold forever (R149: so SLAVE_FAIR holds). -/
theorem SensorSlaveRun.busyEnds {value : Byte → Nat → BitVec 16} {c : Nat → Choice} {r : Nat → State}
    (h : SensorSlaveRun value c r) : BusyEnds r :=
  h.2 (h.1 0).1

end Sys2Proof.Machine
end

