-- ==== Sys2Proof/Laws/PerInstr.lean ====
section
/-! SUPPORT. Family TableRow: every instruction's encoding has the fixed bits spec/opcode_table.json gives its row. -/

namespace Sys2Proof.Laws.TableRow

/-- Mask and match of an instruction's row of the opcode table. -/
def row : Instr → Nat × Nat
  | .ldClkClken => (0xFFFF, 0x0000)
  | .stClkClken _ => (0xFFFF, 0x2000)
  | .ldI2cmCtrl => (0xFFFF, 0x4000)
  | .stI2cmCtrl _ => (0xFFFF, 0x6000)
  | .ldI2cmClkdiv => (0xFFFF, 0x4004)
  | .stI2cmClkdiv _ => (0xFFFF, 0x6004)
  | .ldI2cmOwnaddr => (0xFFFF, 0x4008)
  | .stI2cmOwnaddr _ => (0xFFFF, 0x6008)
  | .stI2cmCmd _ => (0xFFFF, 0x600C)
  | .ldI2cmStatus => (0xFFFF, 0x4010)
  | .ldI2cmRxdata => (0xFFFF, 0x4014)
  | .ldUtxCtrl => (0xFFFF, 0x8000)
  | .stUtxCtrl _ => (0xFFFF, 0xA000)
  | .ldUtxBaud => (0xFFFF, 0x8004)
  | .stUtxBaud _ => (0xFFFF, 0xA004)
  | .ldUtxFrame => (0xFFFF, 0x8008)
  | .stUtxFrame _ => (0xFFFF, 0xA008)
  | .stUtxData _ => (0xFFFF, 0xA00C)
  | .ldUtxStatus => (0xFFFF, 0x8010)
  | .i2cStart => (0xFFFFFFFF, 0x00000001)
  | .i2cAddr _ _ => (0xFFFF00FF, 0x00000002)
  | .i2cWrite _ => (0xFFFF00FF, 0x00000003)
  | .i2cReadAck => (0xFFFFFFFF, 0x00000004)
  | .i2cReadNack => (0xFFFFFFFF, 0x00000005)
  | .i2cStop => (0xFFFFFFFF, 0x00000006)
  | .reservedOp0 _ => (0x00000007, 0x00000000)
  | .reservedOp7 _ => (0x00000007, 0x00000007)

/-- The bits of an encoding that the table numbers: an ACC descriptor, or a CMD word (30_encoding R80). -/
def tableBits : Encoded → Nat
  | .acc desc _ => desc.toNat
  | .cmd w => w.toNat

/-- The encoded instruction matches its row. -/
def Statement (i : Instr) : Prop :=
  tableBits (encode i) &&& (row i).1 = (row i).2

theorem ldClkClken : Statement .ldClkClken := rfl

theorem stClkClken (v : Word) : Statement (.stClkClken v) := by
  show (0x2000#16).toNat &&& 0xFFFF = 0x2000
  decide

theorem ldI2cmCtrl : Statement .ldI2cmCtrl := rfl

theorem stI2cmCtrl (v : Word) : Statement (.stI2cmCtrl v) := by
  show (0x6000#16).toNat &&& 0xFFFF = 0x6000
  decide

theorem ldI2cmClkdiv : Statement .ldI2cmClkdiv := rfl

theorem stI2cmClkdiv (v : Word) : Statement (.stI2cmClkdiv v) := by
  show (0x6004#16).toNat &&& 0xFFFF = 0x6004
  decide

theorem ldI2cmOwnaddr : Statement .ldI2cmOwnaddr := rfl

theorem stI2cmOwnaddr (v : Word) : Statement (.stI2cmOwnaddr v) := by
  show (0x6008#16).toNat &&& 0xFFFF = 0x6008
  decide

theorem stI2cmCmd (v : Word) : Statement (.stI2cmCmd v) := by
  show (0x600C#16).toNat &&& 0xFFFF = 0x600C
  decide

theorem ldI2cmStatus : Statement .ldI2cmStatus := rfl

theorem ldI2cmRxdata : Statement .ldI2cmRxdata := rfl

theorem ldUtxCtrl : Statement .ldUtxCtrl := rfl

theorem stUtxCtrl (v : Word) : Statement (.stUtxCtrl v) := by
  show (0xA000#16).toNat &&& 0xFFFF = 0xA000
  decide

theorem ldUtxBaud : Statement .ldUtxBaud := rfl

theorem stUtxBaud (v : Word) : Statement (.stUtxBaud v) := by
  show (0xA004#16).toNat &&& 0xFFFF = 0xA004
  decide

theorem ldUtxFrame : Statement .ldUtxFrame := rfl

theorem stUtxFrame (v : Word) : Statement (.stUtxFrame v) := by
  show (0xA008#16).toNat &&& 0xFFFF = 0xA008
  decide

theorem stUtxData (v : Word) : Statement (.stUtxData v) := by
  show (0xA00C#16).toNat &&& 0xFFFF = 0xA00C
  decide

theorem ldUtxStatus : Statement .ldUtxStatus := rfl

theorem i2cStart : Statement .i2cStart := rfl

theorem i2cAddr (a7 : BitVec 7) (dir : Direction) : Statement (.i2cAddr a7 dir) := by
  revert a7; cases dir <;> unfold Statement <;> decide

theorem i2cWrite (b : Byte) : Statement (.i2cWrite b) := by
  revert b; unfold Statement; decide

theorem i2cReadAck : Statement .i2cReadAck := rfl

theorem i2cReadNack : Statement .i2cReadNack := rfl

theorem i2cStop : Statement .i2cStop := rfl

theorem reservedOp0 (rest : BitVec 29) : Statement (.reservedOp0 rest) := by
  show (rest ++ 0b000#3).toNat &&& 7 = 0
  rw [BitVec.toNat_append, Nat.and_two_pow_sub_one_eq_mod _ 3, ← Nat.shiftLeft_add_eq_or_of_lt (by decide)]
  simp [Nat.shiftLeft_eq]

theorem reservedOp7 (rest : BitVec 29) : Statement (.reservedOp7 rest) := by
  show (rest ++ 0b111#3).toNat &&& 7 = 7
  rw [BitVec.toNat_append, Nat.and_two_pow_sub_one_eq_mod _ 3, ← Nat.shiftLeft_add_eq_or_of_lt (by decide)]
  simp [Nat.shiftLeft_eq]

end Sys2Proof.Laws.TableRow
end

