-- ==== Sys2Proof/Laws/Steps.lean ====
section
/-! SUPPORT. Everything an instruction and a step can do, said once: an invariant needs a case analysis over these and no
unfolding of `exec` or `step`. -/

namespace Sys2Proof.Machine

/-- A command was accepted. -/
def Accepted (s t : State) : Prop :=
  s.i2cm.en = true ∧ s.i2cm.busy = false ∧
    ∃ c, legal s.i2cm.phase s.i2cm.nackf c.op = none ∧ t = accept c s

/-- What an instruction leads to when it raises no fault. -/
def Effect (i : Instr) (s t : State) : Prop :=
  match i with
  | .ldClkClken => t = { s with readData := clkenWord s.clk }
  | .stClkClken v =>
    t = { s with clk := { i2c := v.getLsbD 0, utx := v.getLsbD 1 } } ∧
      (v.getLsbD 0 = false → s.i2cm.en = false) ∧ (v.getLsbD 1 = false → s.utx.en = false)
  | .ldI2cmCtrl => t = { s with readData := enableWord s.i2cm.en }
  | .stI2cmCtrl _ =>
    t = s ∨
      (s.clk.i2c = true ∧ s.i2cm.en = false ∧ s.i2cm.clkdiv ≠ 0#16 ∧
        t = { s with i2cm := { s.i2cm with en := true, phase := .idle, ack := false, nackf := false } }) ∨
      (s.i2cm.en = true ∧ s.i2cm.busy = false ∧ s.i2cm.phase.atRest = true ∧
        t = { s with i2cm := { s.i2cm with en := false } })
  | .ldI2cmClkdiv => t = { s with readData := s.i2cm.clkdiv.setWidth 32 }
  | .stI2cmClkdiv v => s.i2cm.en = false ∧ t = { s with i2cm := { s.i2cm with clkdiv := divField v } }
  | .ldI2cmOwnaddr => t = { s with readData := s.i2cm.ownaddr.setWidth 32 }
  | .stI2cmOwnaddr v => s.i2cm.en = false ∧ t = { s with i2cm := { s.i2cm with ownaddr := ownaddrField v } }
  | .ldI2cmStatus => t = { s with readData := i2cmStatusWord s.i2cm }
  | .ldI2cmRxdata => ∃ b, s.i2cm.rxdata = some b ∧ t = { s with readData := b.setWidth 32 }
  | .ldUtxCtrl => t = { s with readData := enableWord s.utx.en }
  | .stUtxCtrl _ =>
    t = s ∨
      (s.clk.utx = true ∧ s.utx.en = false ∧ s.utx.baud ≠ 0#16 ∧ t = { s with utx := { s.utx with en := true } }) ∨
      (s.utx.en = true ∧ s.utx.tdr = none ∧ s.utx.shift = none ∧ t = { s with utx := { s.utx with en := false } })
  | .ldUtxBaud => t = { s with readData := s.utx.baud.setWidth 32 }
  | .stUtxBaud v => s.utx.en = false ∧ t = { s with utx := { s.utx with baud := divField v } }
  | .ldUtxFrame => t = { s with readData := s.utx.frame.setWidth 32 }
  | .stUtxFrame _ => s.utx.en = false ∧ t = { s with utx := { s.utx with frame := 0x08#8 } }
  | .stUtxData v =>
    s.utx.en = true ∧ s.utx.tdr = none ∧ t = { s with utx := { s.utx with tdr := some (lowByte v), tc := false } }
  | .ldUtxStatus => t = { s with readData := utxStatusWord s.utx }
  | .stI2cmCmd _ | .i2cStart | .i2cAddr _ _ | .i2cWrite _ | .i2cReadAck | .i2cReadNack | .i2cStop | .reservedOp0 _
  | .reservedOp7 _ => Accepted s t

theorem hostRead_ok_next {r : RegName} {w : Word} {s t : State} (h : hostRead r (.ok w) s = .next t) :
    s.fault = none ∧ ((∃ c info, t = s.raise c info) ∨ t = { s with readData := w }) := by
  obtain ⟨hf, ⟨c, ht, _⟩ | ⟨_, w', hw, ht⟩⟩ := hostRead_next h
  · exact ⟨hf, .inl ⟨_, _, ht⟩⟩
  · cases hw
    exact ⟨hf, .inr ht⟩

theorem hostWrite_body_next {r : RegName} {v : Word} {body : Except FaultCode State} {s t : State}
    (h : hostWrite r v body s = .next t) :
    s.fault = none ∧ ((∃ c info, t = s.raise c info) ∨ (s.gated r.unit = false ∧ body = .ok t)) := by
  obtain ⟨hf, ⟨c, ht, _⟩ | hb⟩ := hostWrite_next h
  · exact ⟨hf, .inl ⟨_, _, ht⟩⟩
  · exact ⟨hf, .inr hb⟩

theorem commandWrite_next {v : Word} {s t : State} (h : commandWrite v s = .next t) :
    s.fault = none ∧ ((∃ c info, t = s.raise c info) ∨ Accepted s t) := by
  obtain ⟨hf, hr | ⟨_, hb⟩⟩ := hostWrite_body_next h
  · exact ⟨hf, .inl hr⟩
  · obtain ⟨he, hb, op, _, hl, ht⟩ := cmdIssue_ok hb
    exact ⟨hf, .inr ⟨he, hb, _, by simpa using hl, ht⟩⟩

/-- An instruction that answers a next state has raised a fault, or has had its effect. -/
theorem exec_next {i : Instr} {s t : State} (h : exec i s = .next t) :
    s.fault = none ∧ ((∃ c info, t = s.raise c info) ∨ Effect i s t) := by
  cases i with
  | ldClkClken => exact hostRead_ok_next h
  | stClkClken v => exact (hostWrite_body_next h).imp_right (.imp_right fun hb => clkenWrite_ok hb.2)
  | ldI2cmCtrl => exact hostRead_ok_next h
  | stI2cmCtrl v =>
    refine (hostWrite_body_next h).imp_right (.imp_right fun hb => ?_)
    have hg : s.clk.i2c = true := by simpa [State.gated, RegName.unit] using hb.1
    exact (i2cmCtrlWrite_ok hb.2).imp_right (.imp_left fun hc => ⟨hg, hc⟩)
  | ldI2cmClkdiv => exact hostRead_ok_next h
  | stI2cmClkdiv v => exact (hostWrite_body_next h).imp_right (.imp_right fun hb => i2cmClkdivWrite_ok hb.2)
  | ldI2cmOwnaddr => exact hostRead_ok_next h
  | stI2cmOwnaddr v => exact (hostWrite_body_next h).imp_right (.imp_right fun hb => i2cmOwnaddrWrite_ok hb.2)
  | stI2cmCmd v => exact commandWrite_next h
  | ldI2cmStatus => exact hostRead_ok_next h
  | ldI2cmRxdata =>
    obtain ⟨hf, ⟨c, ht, _⟩ | ⟨_, w, hw, ht⟩⟩ := hostRead_next h
    · exact ⟨hf, .inl ⟨_, _, ht⟩⟩
    · refine ⟨hf, .inr ?_⟩
      unfold i2cmRxdataRead at hw
      split at hw <;> cases hw
      exact ⟨_, ‹_›, ht⟩
  | ldUtxCtrl => exact hostRead_ok_next h
  | stUtxCtrl v =>
    refine (hostWrite_body_next h).imp_right (.imp_right fun hb => ?_)
    have hg : s.clk.utx = true := by simpa [State.gated, RegName.unit] using hb.1
    exact (utxCtrlWrite_ok hb.2).imp_right (.imp_left fun hc => ⟨hg, hc⟩)
  | ldUtxBaud => exact hostRead_ok_next h
  | stUtxBaud v => exact (hostWrite_body_next h).imp_right (.imp_right fun hb => utxBaudWrite_ok hb.2)
  | ldUtxFrame => exact hostRead_ok_next h
  | stUtxFrame v => exact (hostWrite_body_next h).imp_right (.imp_right fun hb => utxFrameWrite_ok hb.2)
  | stUtxData v => exact (hostWrite_body_next h).imp_right (.imp_right fun hb => utxDataWrite_ok hb.2)
  | ldUtxStatus => exact hostRead_ok_next h
  | i2cStart => exact commandWrite_next h
  | i2cAddr a7 dir => exact commandWrite_next h
  | i2cWrite b => exact commandWrite_next h
  | i2cReadAck => exact commandWrite_next h
  | i2cReadNack => exact commandWrite_next h
  | i2cStop => exact commandWrite_next h
  | reservedOp0 rest => exact commandWrite_next h
  | reservedOp7 rest => exact commandWrite_next h

/-- What an access leads to: a fault with no other effect, or the effect of an instruction. -/
def AccessResult (s u : State) : Prop :=
  s.fault = none ∧ ((∃ c info, u = s.raise c info) ∨ ∃ i, exec i s = .next u ∧ Effect i s u)

theorem performAccess_next {e : Encoded} {s u : State} (h : performAccess e s = .next u) : AccessResult s u := by
  have raised {r : RegName} {d : Direction} {v : Option Word} {c : FaultCode}
      (h : hostAccess r d v (.error c) s = .next u) : AccessResult s u := by
    obtain ⟨hf, ⟨c, ht, _⟩ | ⟨_, hb⟩⟩ := hostAccess_next h
    · exact ⟨hf, .inl ⟨_, _, ht⟩⟩
    · cases hb
  unfold performAccess at h
  split at h
  · obtain ⟨hf, hr | he⟩ := exec_next h
    · exact ⟨hf, .inl hr⟩
    · exact ⟨hf, .inr ⟨_, h, he⟩⟩
  · unfold refuseEncoding at h
    split at h
    · obtain ⟨hf, hr | ha⟩ := commandWrite_next h
      · exact ⟨hf, .inl hr⟩
      · exact ⟨hf, .inr ⟨.stI2cmCmd _, h, ha⟩⟩
    · split at h
      · obtain ⟨hf, h⟩ := whileRunning_next h
        cases h
        exact ⟨hf, .inl ⟨_, _, rfl⟩⟩
      · exact raised h
      · exact raised h
      all_goals
        obtain ⟨_, h⟩ := whileRunning_next h
        cases h

theorem memAccess_next {addr : Word} {n : Nat} {d : Direction} {v : Word} {s u : State}
    (h : memAccess addr n d v s = .next u) : AccessResult s u := by
  unfold memAccess at h
  split at h
  · obtain ⟨_, h⟩ := whileRunning_next h
    cases h
  · split at h
    · obtain ⟨hf, h⟩ := whileRunning_next h
      cases h
      exact ⟨hf, .inl ⟨_, _, rfl⟩⟩
    · exact performAccess_next h

/-- The host's own part of an operation: its registers and its program counter. -/
def OwnPart (u t : State) : Prop :=
  ∃ regs pc, t = State.refresh { u with host := { u.host with regs := regs, pc := pc } }

/-- HOST's turn: nothing at the program's end; an access, whose fault leaves the host where it is; or the host's own
computation. -/
theorem hostStep_next {s t : State} (h : hostStep s = .next t) :
    (s.hostAtEnd ∧ t = s.refresh) ∨
      ∃ op, s.host.program[s.host.pc]? = some op ∧
        ((op.isAccess = true ∧ ∃ u, AccessResult s u ∧
            ((u.fault ≠ none ∧ t = u.refresh) ∨ (u.fault = none ∧ OwnPart u t))) ∨
          (op.isAccess = false ∧ OwnPart s t)) := by
  have access {own : State → State} {o : Host.Outcome State Fault Refusal} (ho : ∀ u, o = .next u → AccessResult s u)
      (hown : ∀ u, ∃ regs, own u = { u with host := { u.host with regs := regs } })
      (h : afterAccess own o = .next t) :
      ∃ u, AccessResult s u ∧ ((u.fault ≠ none ∧ t = u.refresh) ∨ (u.fault = none ∧ OwnPart u t)) := by
    obtain ⟨u, rfl, hu⟩ := afterAccess_next h
    refine ⟨u, ho u rfl, hu.imp_right fun ⟨hf, ht⟩ => ⟨hf, ?_⟩⟩
    obtain ⟨regs, hr⟩ := hown u
    exact ⟨regs, u.host.pc + 1, by rw [ht, hr]; rfl⟩
  have take (rd : Reg) (u : State) : ∃ regs, takeResult rd u = { u with host := { u.host with regs := regs } } :=
    ⟨_, rfl⟩
  have nothing (u : State) : ∃ regs, noResult u = { u with host := { u.host with regs := regs } } := ⟨u.host.regs, rfl⟩
  have compute {rd : Reg} {v : Word} (h : hostCompute rd v s = .next t) : OwnPart s t := by
    cases h
    exact ⟨_, _, rfl⟩
  have branch {c : Bool} {k : Nat} (h : hostBranch c k s = .next t) : OwnPart s t := by
    cases c <;> cases h <;> exact ⟨s.host.regs, _, rfl⟩
  unfold hostStep at h
  split at h
  · cases h
    exact .inl ⟨‹_›, rfl⟩
  · rename_i op hop
    refine .inr ⟨op, hop, ?_⟩
    cases op with
    | memRead rd addr n => exact .inl ⟨rfl, access (fun _ => memAccess_next) (take rd) h⟩
    | memWrite addr n src => exact .inl ⟨rfl, access (fun _ => memAccess_next) nothing h⟩
    | ld rd r => exact .inl ⟨rfl, access (fun _ => performAccess_next) (take rd) h⟩
    | st r src => exact .inl ⟨rfl, access (fun _ => performAccess_next) nothing h⟩
    | encoded e => exact .inl ⟨rfl, access (fun _ => performAccess_next) nothing h⟩
    | mov rd imm => exact .inr ⟨rfl, compute h⟩
    | shl rd rs n => exact .inr ⟨rfl, compute h⟩
    | shr rd rs n => exact .inr ⟨rfl, compute h⟩
    | or rd rs rt => exact .inr ⟨rfl, compute h⟩
    | and rd rs imm => exact .inr ⟨rfl, compute h⟩
    | dec rd => exact .inr ⟨rfl, compute h⟩
    | bnz rd k => exact .inr ⟨rfl, branch h⟩
    | bne rs val k => exact .inr ⟨rfl, branch h⟩
    | b k => exact .inr ⟨rfl, branch h⟩

end Sys2Proof.Machine
end

