-- ==== Sys2Proof/Machine/Wires.lean ====
section
/-! DEFINITION. What the spec says of the wires and of rates, on which no rule of the machine depends (70_reset R188):
the shapes of the bus events (42_i2c_commands R126, 20_memory R63), the line's framing (43_uart_tx R141), the bus
frequency and the bit time (41_i2c_config R110, 43_uart_tx R133). PRESUMED by the spec itself (93 G1, G3, G4; log 17). -/

namespace Sys2Proof.Machine

/-- Who drives a bit on the bus. -/
inductive Driver where
  | master
  | slave
  deriving DecidableEq, Repr, Inhabited

/-- What is seen on SDA and SCL (R126). -/
inductive WireSymbol where
  /-- SDA falls while SCL is high. -/
  | startCondition
  /-- SDA rises while SCL is high. -/
  | stopCondition
  /-- One clock of SCL with SDA at a level, set by a driver. -/
  | clocked (driver : Driver) (level : Bool)
  deriving DecidableEq, Repr, Inhabited

/-- A byte's bits, most significant first (R63). -/
def bitsMsbFirst (b : Byte) : List Bool := (List.range 8).map fun k => b.getLsbD (7 - k)

/-- A byte's bits, least significant first (R63, R141). -/
def bitsLsbFirst (b : Byte) : List Bool := (List.range 8).map fun k => b.getLsbD k

/-- A byte in eight clocks and the ninth clock, in which the receiver drives SDA low for ACK (R126). -/
def byteOnBus (driver receiver : Driver) (b : Byte) (a : Bool) : List WireSymbol :=
  (bitsMsbFirst b).map (.clocked driver) ++ [.clocked receiver (!a)]

/-- The wire shape of an event of BUS_TRACE (R126). -/
def BusEvent.wire : BusEvent → List WireSymbol
  | .start => [.startCondition]
  | .byteOut b a => byteOnBus .master .slave b a
  | .byteIn b a => byteOnBus .slave .master b a
  | .stop => [.stopCondition]

/-- The line's level when it is idle (R141). -/
def lineIdleLevel : Bool := true

/-- A byte of LINE_TRACE on the line: start bit, eight data bits, stop bit, each one bit time long (R141). -/
def lineFrame (b : Byte) : List Bool := [false] ++ bitsLsbFirst b ++ [true]

/-- `f_SCL = F_PCLK / d` hertz, for CLKDIV = d ≥ 1 (R110). -/
def busFrequency (p : Params) (d : BitVec 16) : ℚ := (p.fPclk : ℚ) / (d.toNat : ℚ)

/-- One bit time on the line is `d / F_PCLK` seconds, for BAUD = d ≥ 1 (R133). -/
def bitTime (p : Params) (d : BitVec 16) : ℚ := (d.toNat : ℚ) / (p.fPclk : ℚ)

/-- The line runs at `F_PCLK / d` bits per second, for BAUD = d ≥ 1 (R133). -/
def lineRate (p : Params) (d : BitVec 16) : ℚ := (p.fPclk : ℚ) / (d.toNat : ℚ)

end Sys2Proof.Machine
end

