-- ==== Sys2Proof/Tests/Slice0.lean ====
section
/-! SUPPORT. Tests. Expected values are those of 95_test_vectors.md (named in each comment) or are written out from the
encodings of 30_encoding; then a witness for the hypotheses of each statement that has any. -/

namespace Sys2Proof.Tests

open Sys2Proof.Machine

/-- Reset with CLKEN = 0x3, on the example platform. -/
def clocked : State := { State.resetWith exampleParams with clk := { i2c := true, utx := true } }

/-- "after init" of 95_test_vectors: both units configured and enabled. -/
def afterInit : State :=
  { clocked with
    i2cm := { clocked.i2cm with en := true, clkdiv := 160#16 }
    utx := { clocked.utx with en := true, baud := 1666#16 } }

/-- After init, with a transaction at a given place. -/
def inPhase (ph : Phase) (nackf ack : Bool) : State :=
  { afterInit with i2cm := { afterInit.i2cm with phase := ph, nackf := nackf, ack := ack } }

/-- A command pending. -/
def withPending (c : Command) (s : State) : State :=
  { s with i2cm := { s.i2cm with pending := some c, busy := true } }

/-- TDR and SHIFT holding bytes. -/
def withBytes (tdr shift : Option Byte) (s : State) : State :=
  { s with utx := { s.utx with tdr := tdr, shift := shift, tc := tdr.isNone && shift.isNone } }

/-- An agent's turn; SLAVE releases the bus and answers with a and d. -/
def turnOf (who : Agent) (a : Bool) (d : Byte) (s : State) : State :=
  s.withChoice { turn := who, release := true, ack := a, byte := d }

/-- The host at a program of one operation. -/
def hosting (op : HostOp) (s : State) : State := s.loadProgram [op]

/-- A projection of the next state. -/
def got {α : Type} (o : Host.Outcome State Fault Refusal) (f : State → α) : Option α :=
  match o with
  | .next t => some (f t)
  | .fault _ => none
  | .refused _ => none

/-- The number of the fault a step recorded; 0 for a next state without one. -/
def faultNo (o : Host.Outcome State Fault Refusal) : Option Nat :=
  got o fun t => (t.fault.map fun f => f.code.number).getD 0

/-- What a read returns. -/
def readOf (i : Instr) (s : State) : Option Word := got (exec i s) fun t => t.readData

/-- STATUS of I2CM and the last wire event after ENGINE's turn. -/
def engineResult (s : State) (a : Bool) (d : Byte) : Option (Word × Option BusEvent) :=
  got (step (turnOf .engine a d s)) fun t => (i2cmStatusWord t.i2cm, t.i2cm.busTrace.getLast?)

/-! Decoding: `desc = {UNIT, W, 0b00000, OFF}` (R81), written out bit by bit. -/

theorem test_decode_clk :
    decode (.acc 0b0000000000000000#16 0#32) = .ok .ldClkClken ∧
    decode (.acc 0b0010000000000000#16 3#32) = .ok (.stClkClken 3#32) := by decide

theorem test_decode_i2cm_reads :
    decode (.acc 0b0100000000000000#16 0#32) = .ok .ldI2cmCtrl ∧
    decode (.acc 0b0100000000000100#16 0#32) = .ok .ldI2cmClkdiv ∧
    decode (.acc 0b0100000000001000#16 0#32) = .ok .ldI2cmOwnaddr ∧
    decode (.acc 0b0100000000010000#16 0#32) = .ok .ldI2cmStatus ∧
    decode (.acc 0b0100000000010100#16 0#32) = .ok .ldI2cmRxdata := by decide

theorem test_decode_i2cm_writes :
    decode (.acc 0b0110000000000000#16 1#32) = .ok (.stI2cmCtrl 1#32) ∧
    decode (.acc 0b0110000000000100#16 0xA0#32) = .ok (.stI2cmClkdiv 0xA0#32) ∧
    decode (.acc 0b0110000000001000#16 0x7F#32) = .ok (.stI2cmOwnaddr 0x7F#32) ∧
    decode (.acc 0b0110000000001100#16 0xEE02#32) = .ok (.stI2cmCmd 0xEE02#32) := by decide

theorem test_decode_utx_reads :
    decode (.acc 0b1000000000000000#16 0#32) = .ok .ldUtxCtrl ∧
    decode (.acc 0b1000000000000100#16 0#32) = .ok .ldUtxBaud ∧
    decode (.acc 0b1000000000001000#16 0#32) = .ok .ldUtxFrame ∧
    decode (.acc 0b1000000000010000#16 0#32) = .ok .ldUtxStatus := by decide

theorem test_decode_utx_writes :
    decode (.acc 0b1010000000000000#16 1#32) = .ok (.stUtxCtrl 1#32) ∧
    decode (.acc 0b1010000000000100#16 0x682#32) = .ok (.stUtxBaud 0x682#32) ∧
    decode (.acc 0b1010000000001000#16 8#32) = .ok (.stUtxFrame 8#32) ∧
    decode (.acc 0b1010000000001100#16 0x1A2B#32) = .ok (.stUtxData 0x1A2B#32) := by decide

/-- CMD words: BYTE = v[15:8], OP = v[2:0] (R89); BYTE of ADDR = {A7, DIR} with DIR 1 = read (R98). -/
theorem test_decode_cmd :
    decode (.cmd 0b00000000000000000000000000000001#32) = .ok .i2cStart ∧
    decode (.cmd 0b00000000000000001110111000000010#32) = .ok (.i2cAddr 0b1110111#7 .write) ∧
    decode (.cmd 0b00000000000000001110111100000010#32) = .ok (.i2cAddr 0b1110111#7 .read) ∧
    decode (.cmd 0b00000000000000000011010000000011#32) = .ok (.i2cWrite 0b00110100#8) ∧
    decode (.cmd 0b00000000000000000000000000000100#32) = .ok .i2cReadAck ∧
    decode (.cmd 0b00000000000000000000000000000101#32) = .ok .i2cReadNack ∧
    decode (.cmd 0b00000000000000000000000000000110#32) = .ok .i2cStop ∧
    decode (.cmd 0b00000000000000000000000000001000#32) = .ok (.reservedOp0 1#29) ∧
    decode (.cmd 0b00000000000000000000000000000111#32) = .ok (.reservedOp7 0#29) := by decide

/-- R99 and R81: what decodes to no instruction, by name. -/
theorem test_decode_refused :
    decode (.acc 0b1100000000000000#16 0#32) = .error .notThisBlock ∧
    decode (.acc 0b0000000100000000#16 0#32) = .error .nonzeroField ∧
    decode (.acc 0b0100000000011000#16 0#32) = .error (.unmapped .i2cm 0x18#8) ∧
    decode (.acc 0b0110000000010000#16 0#32) = .error (.writeToReadOnly .i2cmStatus) ∧
    decode (.acc 0b0100000000001100#16 0#32) = .error (.readOfWriteOnly .i2cmCmd) ∧
    decode (.cmd 0b00000000000000010000000000000001#32) = .error .reservedBits ∧
    decode (.cmd 0b00000000000000000000000100000110#32) = .error .operandByte := by decide

/-! Well-formedness: one ill-formed term for each check. -/

theorem test_wf_example : exampleParams.wf = true ∧ exampleParams.divisorsFit = true ∧ exampleParams.delayFits = true := by decide

theorem test_wf_refuses_numbers :
    { exampleParams with fPclk := 0 }.wf = false ∧ { exampleParams with fSclTarget := 0 }.wf = false ∧
    { exampleParams with baudRate := 0 }.wf = false ∧ { exampleParams with delaySpin := 0 }.wf = false ∧
    { exampleParams with pollSels := [] }.wf = false ∧ { exampleParams with selTemp := 0x34#8 }.wf = false := by decide

theorem test_wf_refuses_bases :
    { exampleParams with clkBase := 0x40000010#32 }.wf = false ∧
    { exampleParams with i2cmBase := 0x40000180#32 }.wf = false ∧
    { exampleParams with utxBase := 0x40000201#32 }.wf = false ∧
    { exampleParams with i2cmBase := 0x40000000#32 }.wf = false ∧
    { exampleParams with utxBase := 0x40000000#32 }.wf = false ∧
    { exampleParams with utxBase := 0x40000100#32 }.wf = false := by decide

theorem test_wf_refuses_transcription :
    { exampleParams with fSclTarget := 1, fPclk := 2 ^ 32 }.divisorsFit = false ∧
    { exampleParams with baudRate := 1, fPclk := 2 ^ 32 }.divisorsFit = false ∧
    { exampleParams with delaySpin := 2 ^ 32 }.delayFits = false ∧
    Selector.ofByte exampleParams 0x12#8 = none ∧
    Pseudo.transcribe { exampleParams with baudRate := 1, fPclk := 2 ^ 32 } .init 0 = none ∧
    Pseudo.transcribe { exampleParams with delaySpin := 2 ^ 32 } .pollLoop 0 = none := by decide

/-- R155: `init` does not use DELAY_SPIN. -/
theorem test_init_any_delay :
    Pseudo.transcribe { exampleParams with delaySpin := 2 ^ 32 } .init 0 = some (initOps exampleParams) := by decide

/-- R153: `send` of the usual scratch registers, in each mode. -/
theorem test_send_any_register :
    Pseudo.transcribe exampleParams (.send 7) 2 =
      some [.ld 6 .utxStatus, .and 6 6 1#32, .bne 6 1#32 2, .st .utxData (.reg 7),
            .ld 6 .utxStatus, .and 6 6 2#32, .bne 6 2#32 6] ∧
    (Pseudo.transcribe { exampleParams with sendMode := .splitMsbFirst } (.send 4) 0).map (List.take 3) =
      some [.shr 6 4 8, .and 6 6 0xFF#32, .and 5 4 0xFF#32] := by decide

/-! Access checks (V-MEM). -/

/-- V-MEM-1 to V-MEM-7, from reset. -/
theorem test_mem_reset :
    faultNo (memAccess 0x40000000#32 2 .read 0#32 (State.resetWith exampleParams)) = some 3 ∧
    faultNo (memAccess 0x40000102#32 4 .read 0#32 (State.resetWith exampleParams)) = some 3 ∧
    faultNo (memAccess 0x40000004#32 4 .read 0#32 (State.resetWith exampleParams)) = some 2 ∧
    faultNo (memAccess 0x40000118#32 4 .read 0#32 (State.resetWith exampleParams)) = some 2 ∧
    faultNo (memAccess 0x40000110#32 4 .write 0#32 (State.resetWith exampleParams)) = some 1 ∧
    faultNo (memAccess 0x4000010C#32 4 .read 0#32 (State.resetWith exampleParams)) = some 1 := by decide

/-- V-MEM-8 to V-MEM-13, with CLKEN = 0x3. -/
theorem test_mem_clocked :
    faultNo (memAccess 0x40000110#32 4 .write 0#32 clocked) = some 4 ∧
    faultNo (memAccess 0x40000114#32 4 .write 0#32 clocked) = some 4 ∧
    faultNo (memAccess 0x4000010C#32 4 .read 0#32 clocked) = some 5 ∧
    faultNo (memAccess 0x40000210#32 4 .write 3#32 clocked) = some 4 ∧
    faultNo (memAccess 0x4000020C#32 4 .read 0#32 clocked) = some 5 ∧
    faultNo (memAccess 0x40000214#32 4 .read 0#32 clocked) = some 2 := by decide

/-- E3: the record of F01, and CLKDIV stays 0. -/
theorem test_fault_record :
    got (exec (.stI2cmClkdiv 0xA0#32) (State.resetWith exampleParams)) (fun t => (t.fault, t.i2cm.clkdiv)) =
      some (some { code := .clockGated, phase := none, info := {
        addr := 0x40000104#32, width := 4, dir := .write, value := some 0xA0#32 } }, 0#16) := by decide

/-! CLK (V-CLK). -/

/-- V-CLK-1, V-CLK-2. -/
theorem test_ld_clken :
    readOf .ldClkClken (State.resetWith exampleParams) = some 0#32 ∧ readOf .ldClkClken clocked = some 3#32 := by decide

/-- V-CLK-2 to V-CLK-6. -/
theorem test_st_clken :
    got (exec (.stClkClken 1#32) clocked) (fun t => (t.clk.i2c, t.clk.utx)) = some (true, false) ∧
    faultNo (exec (.stClkClken 4#32) clocked) = some 6 ∧ faultNo (exec (.stClkClken 2#32) afterInit) = some 18 ∧
    faultNo (exec (.stClkClken 1#32) afterInit) = some 18 := by decide

/-! I2CM's registers (V-CFG). -/

/-- V-CFG-4. -/
theorem test_ld_i2cm_ctrl : readOf .ldI2cmCtrl afterInit = some 1#32 ∧ readOf .ldI2cmCtrl clocked = some 0#32 := by
  decide

/-- V-CFG-1, V-CFG-3, V-CFG-6, V-CFG-7. -/
theorem test_st_i2cm_ctrl_faults :
    faultNo (exec (.stI2cmCtrl 1#32) clocked) = some 16 ∧ faultNo (exec (.stI2cmCtrl 3#32) clocked) = some 6 ∧
    faultNo (exec (.stI2cmCtrl 0#32) (withPending .start afterInit)) = some 17 ∧
    faultNo (exec (.stI2cmCtrl 0#32) (inPhase .started false false)) = some 17 := by decide

/-- V-CFG-5, V-CFG-8, V-CFG-9. -/
theorem test_st_i2cm_ctrl_effects :
    exec (.stI2cmCtrl 1#32) afterInit = .next afterInit ∧
    got (exec (.stI2cmCtrl 0#32) (inPhase .stopped false false)) (fun t => (t.i2cm.en, i2cmStatusWord t.i2cm)) =
      some (false, 0x70#32) ∧
    got (exec (.stI2cmCtrl 1#32) { inPhase .stopped true true with
        i2cm := { (inPhase .stopped true true).i2cm with en := false } }) (fun t => i2cmStatusWord t.i2cm) =
      some 0#32 := ⟨rfl, by decide, by decide⟩

/-- V-CFG-14, V-CFG-10 to V-CFG-12. -/
theorem test_i2cm_clkdiv :
    readOf .ldI2cmClkdiv afterInit = some 0xA0#32 ∧
    got (exec (.stI2cmClkdiv 0xA0#32) clocked) (fun t => t.i2cm.clkdiv) = some 160#16 ∧
    faultNo (exec (.stI2cmClkdiv 0x10000#32) afterInit) = some 6 ∧
    faultNo (exec (.stI2cmClkdiv 0xA#32) afterInit) = some 7 := by decide

/-- V-CFG-15 to V-CFG-17. -/
theorem test_i2cm_ownaddr :
    faultNo (exec (.stI2cmOwnaddr 0x80#32) clocked) = some 6 ∧
    got (exec (.stI2cmOwnaddr 0x7F#32) clocked) (fun t => t.i2cm.ownaddr) = some 0x7F#7 ∧
    faultNo (exec (.stI2cmOwnaddr 0#32) afterInit) = some 7 ∧
    readOf .ldI2cmOwnaddr { clocked with i2cm := { clocked.i2cm with ownaddr := 0x7F#7 } } = some 0x7F#32 := by decide

/-- R113's third example; V-ENG-13's STATUS before. -/
theorem test_ld_i2cm_status :
    readOf .ldI2cmStatus (withPending .readNack (inPhase .dataR false true)) = some 0x53#32 ∧
    readOf .ldI2cmStatus (withPending .stop (inPhase .addrW true false)) = some 0x25#32 := by decide

/-- V-CFG-18, V-CFG-19. -/
theorem test_ld_i2cm_rxdata :
    faultNo (exec .ldI2cmRxdata afterInit) = some 20 ∧
    readOf .ldI2cmRxdata { afterInit with i2cm := { afterInit.i2cm with rxdata := some 0x1A#8 } } = some 0x1A#32 := by
  decide

/-! Commands: issue (V-CMD). -/

/-- V-CMD-1 to V-CMD-11. -/
theorem test_st_i2cm_cmd :
    faultNo (exec (.stI2cmCmd 0x9#32) clocked) = some 6 ∧ faultNo (exec (.stI2cmCmd 0#32) clocked) = some 8 ∧
    faultNo (exec (.stI2cmCmd 0x10001#32) afterInit) = some 6 ∧
    faultNo (exec (.stI2cmCmd 7#32) (withPending .start afterInit)) = some 9 ∧
    faultNo (exec (.stI2cmCmd 0x100#32) afterInit) = some 10 ∧
    faultNo (exec (.stI2cmCmd 0x106#32) afterInit) = some 6 ∧
    faultNo (exec (.stI2cmCmd 0xEE02#32) afterInit) = some 11 ∧
    got (exec (.stI2cmCmd 1#32) afterInit) (fun t => i2cmStatusWord t.i2cm) = some 1#32 := by decide

/-- V-CMD-11, V-LEG-2. -/
theorem test_i2c_start :
    got (exec .i2cStart afterInit) (fun t => t.i2cm.pending) = some (some .start) ∧
    faultNo (exec .i2cStart (inPhase .started false false)) = some 11 := by decide

/-- R119's example: A7 = 0x77 with DIR = read is the byte 0xEF. -/
theorem test_i2c_addr :
    got (exec (.i2cAddr 0x77#7 .read) (inPhase .started false false)) (fun t => t.i2cm.pending) =
      some (some (.addr 0xEF#8)) := by decide

/-- V-LEG-3, V-LEG-9. -/
theorem test_i2c_write :
    got (exec (.i2cWrite 0x34#8) (inPhase .addrW false true)) (fun t => t.i2cm.pending) =
      some (some (.write 0x34#8)) ∧
    faultNo (exec (.i2cWrite 0x34#8) (inPhase .addrW true false)) = some 14 := by decide

/-- V-LEG-4, V-LEG-7. -/
theorem test_i2c_reads :
    got (exec .i2cReadAck (inPhase .addrR false true)) (fun t => t.i2cm.pending) = some (some .readAck) ∧
    got (exec .i2cReadNack (inPhase .dataR false true)) (fun t => t.i2cm.pending) = some (some .readNack) ∧
    faultNo (exec .i2cReadAck (inPhase .dataRLast false false)) = some 13 ∧
    faultNo (exec .i2cReadNack (inPhase .dataRLast false false)) = some 13 := by decide

/-- V-LEG-7, V-LEG-6, V-LEG-4. -/
theorem test_i2c_stop :
    got (exec .i2cStop (inPhase .dataRLast false false)) (fun t => t.i2cm.pending) = some (some .stop) ∧
    faultNo (exec .i2cStop (inPhase .dataR false true)) = some 12 ∧
    faultNo (exec .i2cStop (inPhase .addrR false true)) = some 11 := by decide

/-- V-CMD-6, V-CMD-7, V-CMD-1. -/
theorem test_reserved_ops :
    faultNo (exec (.reservedOp0 0x20#29) afterInit) = some 10 ∧ faultNo (exec (.reservedOp7 0#29) afterInit) = some 10 ∧
    faultNo (exec (.reservedOp0 1#29) clocked) = some 6 := by decide

/-! Commands: completion (V-ENG). -/

/-- V-ENG-1, V-ENG-2. -/
theorem test_engine_start :
    engineResult (withPending .start afterInit) true 0#8 = some (0x10#32, some .start) ∧
    engineResult (withPending .start (inPhase .stopped true false)) true 0#8 = some (0x10#32, some .start) := by decide

/-- V-ENG-3, V-ENG-4, V-ENG-5, V-ENG-6. -/
theorem test_engine_addr :
    engineResult (withPending (.addr 0xEE#8) (inPhase .started false false)) true 0#8 =
      some (0x22#32, some (.byteOut 0xEE#8 true)) ∧
    engineResult (withPending (.addr 0xEE#8) (inPhase .started false false)) false 0#8 =
      some (0x24#32, some (.byteOut 0xEE#8 false)) ∧
    engineResult (withPending (.addr 0xEF#8) (inPhase .started false false)) true 0#8 =
      some (0x32#32, some (.byteOut 0xEF#8 true)) ∧
    engineResult (withPending (.addr 0xEF#8) (inPhase .started false false)) false 0#8 =
      some (0x34#32, some (.byteOut 0xEF#8 false)) := by decide

/-- V-ENG-7, V-ENG-8. -/
theorem test_engine_write :
    engineResult (withPending (.write 0x34#8) (inPhase .addrW false true)) true 0#8 =
      some (0x42#32, some (.byteOut 0x34#8 true)) ∧
    engineResult (withPending (.write 0#8) (inPhase .dataW false true)) false 0#8 =
      some (0x44#32, some (.byteOut 0#8 false)) := by decide

/-- V-ENG-9, V-ENG-11. -/
theorem test_engine_reads :
    engineResult (withPending .readAck (inPhase .addrR false true)) true 0x1A#8 =
      some (0x52#32, some (.byteIn 0x1A#8 true)) ∧
    engineResult (withPending .readNack (inPhase .dataR false true)) true 0x2B#8 =
      some (0x60#32, some (.byteIn 0x2B#8 false)) := by decide

/-- V-ENG-12, V-ENG-13, V-ENG-14. -/
theorem test_engine_stop :
    engineResult (withPending .stop (inPhase .dataRLast false false)) true 0#8 = some (0x70#32, some .stop) ∧
    engineResult (withPending .stop (inPhase .addrW true false)) true 0#8 = some (0x74#32, some .stop) ∧
    engineResult (withPending .stop (inPhase .addrW false true)) true 0#8 = some (0x72#32, some .stop) := by decide

/-! UTX (V-UTX). -/

/-- V-UTX-1, V-UTX-16, V-UTX-17. -/
theorem test_st_utx_ctrl :
    faultNo (exec (.stUtxCtrl 1#32) clocked) = some 16 ∧
    faultNo (exec (.stUtxCtrl 0#32) (withBytes (some 0x41#8) none afterInit)) = some 17 ∧
    got (exec (.stUtxCtrl 0#32) afterInit) (fun t => t.utx.en) = some false ∧
    readOf .ldUtxCtrl afterInit = some 1#32 := by decide

/-- V-UTX-3, V-UTX-4, V-UTX-17. -/
theorem test_utx_baud :
    faultNo (exec (.stUtxBaud 1#32) afterInit) = some 7 ∧ faultNo (exec (.stUtxBaud 0x10000#32) clocked) = some 6 ∧
    got (exec (.stUtxBaud 0x682#32) clocked) (fun t => t.utx.baud) = some 1666#16 ∧
    readOf .ldUtxBaud afterInit = some 0x682#32 := by decide

/-- V-UTX-5 to V-UTX-8. -/
theorem test_utx_frame :
    faultNo (exec (.stUtxFrame 8#32) clocked) = some 0 ∧ faultNo (exec (.stUtxFrame 9#32) clocked) = some 16 ∧
    faultNo (exec (.stUtxFrame 0x108#32) clocked) = some 6 ∧ faultNo (exec (.stUtxFrame 8#32) afterInit) = some 7 ∧
    readOf .ldUtxFrame clocked = some 8#32 := by decide

/-- V-UTX-9 to V-UTX-12; E8. -/
theorem test_st_utx_data :
    faultNo (exec (.stUtxData 0x41#32) clocked) = some 8 ∧ faultNo (exec (.stUtxData 0x10041#32) afterInit) = some 6 ∧
    got (exec (.stUtxData 0x1A2B#32) afterInit) (fun t => (t.utx.tdr, utxStatusWord t.utx)) = some (some 0x2B#8, 0#32) ∧
    faultNo (exec (.stUtxData 0x42#32) (withBytes (some 0x41#8) none afterInit)) = some 15 := by decide

/-- E4's column of STATUS words. -/
theorem test_ld_utx_status :
    readOf .ldUtxStatus afterInit = some 3#32 ∧
    readOf .ldUtxStatus (withBytes (some 0x41#8) none afterInit) = some 0#32 ∧
    readOf .ldUtxStatus (withBytes none (some 0x41#8) afterInit) = some 1#32 := by decide

/-- V-UTX-13, V-UTX-14: the load step, and a shift-out with a byte waiting. -/
theorem test_tx_steps :
    got (step (turnOf .tx true 0#8 (withBytes (some 0x41#8) none afterInit)))
      (fun t => (t.utx.tdr, t.utx.shift, utxStatusWord t.utx)) = some (none, some 0x41#8, 1#32) ∧
    got (step (turnOf .tx true 0#8 (withBytes (some 0x42#8) (some 0x41#8) afterInit)))
      (fun t => (t.utx.lineTrace, t.utx.tdr, t.utx.tc)) = some ([0x41#8], some 0x42#8, false) := by decide

/-! Steps, placement and sequences. -/

/-- An instruction placed where the host comes to it next is what the next step runs, from reset on. -/
theorem test_with_fetch_word :
    got (step (State.reset.withFetchWord 16 0x2000)) (fun t => (t.clk.i2c, t.host.pc)) = some (false, 1) ∧
    faultNo (step ((State.resetWith exampleParams).withFetchWord 32 0x0000EE02)) = some 1 ∧
    faultNo (step ((State.resetWith exampleParams).withFetchWord 8 0x07)) = some 1 ∧
    decodeTableWord 8 0x07 = some (.reservedOp7 0#29) := by decide

/-- A read lands in its register; a fault leaves the host where it is. -/
theorem test_host_ld :
    got (step (hosting (.ld 3 .clkClken) clocked)) (fun t => (t.host.regs[3], t.host.pc)) = some (3#32, 1) ∧
    got (step (hosting (.memRead 3 0x40000002#32 4) clocked)) (fun t => (t.host.regs[3], t.host.pc)) =
      some (0#32, 0) := by decide

/-- P1: the nine accesses of `init` carry the words of the example parameters (R110, R133). -/
theorem test_init :
    initOps exampleParams =
      [.st .clkClken (.imm 3#32), .st .i2cmCtrl (.imm 0#32), .st .i2cmClkdiv (.imm 0xA0#32),
       .st .i2cmOwnaddr (.imm 0#32), .st .i2cmCtrl (.imm 1#32), .st .utxCtrl (.imm 0#32),
       .st .utxBaud (.imm 0x682#32), .st .utxFrame (.imm 8#32), .st .utxCtrl (.imm 1#32)] := by decide

/-- R145: START, wait, ADDR with the slave's byte, wait; the wait loops back to its own first operation (R101). -/
theorem test_begin_transaction :
    Pseudo.expand exampleParams (.beginTransaction .read) 5 =
      [.encoded (.cmd 0x00000001#32), .ld 7 .i2cmStatus, .and 7 7 1#32, .bne 7 0#32 6,
       .encoded (.cmd 0x0000EF02#32), .ld 7 .i2cmStatus, .and 7 7 1#32, .bne 7 0#32 10] := by decide

/-- R63, R126, R141: bit orders on the wires, of 0x35. -/
theorem test_wires :
    bitsMsbFirst 0x35#8 = [false, false, true, true, false, true, false, true] ∧
    lineFrame 0x35#8 = [false, true, false, true, false, true, true, false, false, true] := by decide

/-- R149, E2: the selector written, then a read address: the sample's two bytes, most significant first. -/
theorem test_sensor :
    let v := sensorView 0x77#7 [.start, .byteOut 0xEE#8 true, .byteOut 0x34#8 true, .stop, .start, .byteOut 0xEF#8 true]
    v.addressed = some .read ∧ v.sel = some 0x34#8 ∧ v.reads = 1 ∧ v.sent = 0 ∧
    sampleByte 0x1A2B#16 1 = 0x1A#8 ∧ sampleByte 0x1A2B#16 2 = 0x2B#8 := by decide

/-! Witnesses: a state and operands that meet each statement's hypotheses, for each of its clauses. -/

theorem witness_DecodedBitsAreTheEncoding :
    decode (.acc 0x8010#16 5#32) = .ok .ldUtxStatus ∧ decode (.acc 0xA00C#16 0xFFFFFFFF#32) = .ok (.stUtxData 0xFFFFFFFF#32) ∧
    (0xA00C#16).getLsbD 13 = true ∧ decode (.cmd 0xFFFFFFFF#32) = .ok (.reservedOp7 0x1FFFFFFF#29) := by decide

theorem witness_CommandIsWriteOfItsWord : decode (.cmd 0x0000FF03#32) = .ok (.i2cWrite 0xFF#8) := by decide

/-- Either branch, at the window's two ends. -/
theorem witness_OnlyAlignedWords :
    clocked.fault = none ∧ decodeAddr clocked.params 0x400001FF#32 = some (.i2cm, 0xFF#8) ∧
    decodeAddr clocked.params 0x40000100#32 = some (.i2cm, 0x00#8) := by decide

/-- The access checks' branches in turn: F03, F02, F01, F04, F05, an instruction. -/
theorem witness_CommonAccessChecks :
    clocked.fault = none ∧ decodeAddr exampleParams 0x400000FE#32 = some (.clk, 0xFE#8) ∧
    decodeAddr exampleParams 0x40000214#32 = some (.utx, 0x14#8) ∧ regAt .utx 0x14#8 = none ∧
    (State.resetWith exampleParams).clk.utx = false ∧ decodeAddr exampleParams 0x40000210#32 = some (.utx, 0x10#8) ∧
    regAt .utx 0x10#8 = some .utxStatus ∧ decodeAddr exampleParams 0x4000020C#32 = some (.utx, 0x0C#8) ∧
    regAt .utx 0x0C#8 = some .utxData ∧ decodeAddr exampleParams 0x40000000#32 = some (.clk, 0x00#8) := by decide

/-- The lowest and the highest empty offset of each window, and both clocks on. -/
theorem witness_UnmappedAndWrongDirection :
    clocked.fault = none ∧ clocked.params.basesWf = true ∧ clocked.clk.i2c = true ∧ clocked.clk.utx = true ∧
    (0x04#8).toNat % 4 = 0 ∧ (0x18#8).toNat % 4 = 0 ∧ (0x14#8).toNat % 4 = 0 ∧ (0xFC#8).toNat % 4 = 0 := by decide

theorem witness_WordAccessIsItsInstruction :
    clocked.params.basesWf = true ∧ decode (.acc (accDesc .i2cm .read 0x14#8) 0#32) = .ok .ldI2cmRxdata ∧
    decode (.acc (accDesc .clk .write 0x00#8) 3#32) = .ok (.stClkClken 3#32) := by decide

theorem witness_GatedUnit :
    (State.resetWith exampleParams).fault = none ∧ (State.resetWith exampleParams).clk.i2c = false ∧
    (State.resetWith exampleParams).clk.utx = false ∧ RegName.i2cmRxdata.unit = .i2cm ∧ RegName.utxStatus.unit = .utx ∧
    (State.resetWith exampleParams).Inv ∧
    (got (exec (.stClkClken 5#32) clocked) fun t => t.fault.isSome) = some true ∧
    (got (exec (.stClkClken 0#32) clocked) fun t => t.clk.i2c) = some false := by decide

/-- Each branch of CLKEN's write. -/
theorem witness_ClkenWrite :
    afterInit.fault = none ∧ 4 ≤ (4#32).toNat ∧ (2#32).toNat % 2 = 0 ∧ afterInit.i2cm.en = true ∧ (1#32).toNat < 2 ∧
    afterInit.utx.en = true ∧ clocked.i2cm.en = false := by decide

/-- The reads' branches: clock off and on, RXDATA written or not. -/
theorem witness_Reads :
    afterInit.fault = none ∧ afterInit.clk.i2c = true ∧ afterInit.clk.utx = true ∧ afterInit.Inv ∧
    (State.resetWith exampleParams).fault = none ∧ (State.resetWith exampleParams).clk.i2c = false ∧
    afterInit.i2cm.rxdata = none ∧ readOf .ldI2cmCtrl clocked = some 0#32 := by decide

/-- The writes' branches: gated, reserved bits at the boundary, enabled and disabled units. -/
theorem witness_Writes :
    afterInit.fault = none ∧ afterInit.clk.i2c = true ∧ afterInit.i2cm.en = true ∧ afterInit.i2cm.clkdiv ≠ 0#16 ∧
    clocked.i2cm.en = false ∧ clocked.i2cm.clkdiv = 0#16 ∧ afterInit.i2cm.busy = false ∧
    afterInit.params.pinsRoutedI2c = true ∧ afterInit.utx.en = true ∧ afterInit.utx.tdr = none ∧
    (withBytes (some 1#8) none afterInit).utx.tdr ≠ none ∧ (withBytes (some 1#8) none afterInit).Inv := by decide

/-- CMD's branches: gated, disabled, busy, and each command accepted or turned away. -/
theorem witness_CommandIssue :
    (State.resetWith exampleParams).clk.i2c = false ∧ clocked.i2cm.en = false ∧
    (withPending .start afterInit).i2cm.busy = true ∧ afterInit.fault = none ∧
    legal .idle false .start = none ∧ legal .dataR false .stop = some .ackOnFinalByte := by decide

/-- The hypotheses of the six commands' statements: the issue, and the completion. -/
theorem witness_Commands :
    afterInit.fault = none ∧ afterInit.clk.i2c = true ∧ afterInit.i2cm.en = true ∧ afterInit.i2cm.busy = false ∧
    (turnOf .engine true 0x1A#8 (withPending .readAck (inPhase .addrR false true))).choice.turn = .engine ∧
    (turnOf .engine true 0x1A#8 (withPending .readAck (inPhase .addrR false true))).choice.release = true ∧
    (turnOf .engine true 0x1A#8 (withPending .readAck (inPhase .addrR false true))).i2cm.busy = true ∧
    (turnOf .engine true 0x1A#8 (withPending .readAck (inPhase .addrR false true))).i2cm.pending = some .readAck ∧
    (turnOf .engine true 0x1A#8 (withPending .readAck (inPhase .addrR false true))).Inv := by decide

/-- ENGINE's turn in its three situations: a completion, nothing to do, a stopped run. -/
theorem witness_EngineTurn :
    (turnOf .engine true 0#8 (withPending .start afterInit)).choice.turn = .engine ∧
    (turnOf .engine true 0#8 (withPending .start afterInit)).fault = none ∧
    (turnOf .engine true 0#8 afterInit).i2cm.busy = false ∧
    ((turnOf .engine true 0#8 afterInit).withFault .unmapped 0x40000004#32 4 .read none none).fault ≠ none := by decide

/-- F10's and F06's cases of a reserved OP, at the boundary of the BYTE field. -/
theorem witness_ReservedOpsFault :
    afterInit.fault = none ∧ afterInit.clk.i2c = true ∧ afterInit.i2cm.en = true ∧ afterInit.i2cm.busy = false ∧
    (0x1FE0#29).toNat % 32 = 0 ∧ (0x1FE0#29).toNat < 8192 ∧ ¬(0x2000#29).toNat < 8192 ∧ (0x1F#29).toNat % 32 ≠ 0 := by
  decide

/-- TX's turn: load, shift-out, nothing. -/
theorem witness_TransmitterSteps :
    (turnOf .tx true 0#8 (withBytes (some 1#8) none afterInit)).fault = none ∧
    (turnOf .tx true 0#8 (withBytes (some 1#8) none afterInit)).choice.turn = .tx ∧
    (withBytes (some 1#8) none afterInit).utx.en = true ∧ (withBytes (some 1#8) none afterInit).utx.tdr = some 1#8 ∧
    (withBytes (some 1#8) none afterInit).utx.shift = none ∧
    (withBytes none (some 2#8) afterInit).utx.shift = some 2#8 ∧ afterInit.utx.shift = none ∧
    afterInit.utx.tdr = none := by decide

/-- An agent's turn with no step enabled: ENGINE with SLAVE holding the bus, TX with nothing to send, HOST at the end. -/
theorem witness_DisabledTurnChangesNothing :
    let held := (withPending .start afterInit).withChoice { turn := .engine, release := false, ack := true, byte := 0#8 }
    held.fault = none ∧ held.choice.turn = .engine ∧ held.choice.release = false ∧
    (turnOf .tx true 0#8 afterInit).choice.turn = .tx ∧ (turnOf .tx true 0#8 afterInit).utx.shift = none ∧
    (turnOf .tx true 0#8 afterInit).utx.tdr = none ∧ afterInit.choice.turn = .host ∧ afterInit.host.program = [] := by
  decide

/-- Each clause of the CLK completions. -/
theorem witness_ClkInstructionsComplete :
    clocked.fault = none ∧ clocked.i2cm.en = false ∧ clocked.utx.en = false := by decide

/-- Each clause of the I2CM completions. -/
theorem witness_I2cmRegisterInstructionsComplete :
    clocked.fault = none ∧ clocked.clk.i2c = true ∧ clocked.i2cm.en = false ∧ clocked.params.pinsRoutedI2c = true ∧
    { clocked.i2cm with clkdiv := 1#16 }.clkdiv ≠ 0#16 ∧ { clocked.i2cm with rxdata := some 0xFF#8 }.rxdata = some 0xFF#8 ∧
    afterInit.i2cm.en = true ∧ afterInit.i2cm.busy = false ∧ afterInit.i2cm.phase = .idle ∧
    (inPhase .stopped true true).i2cm.phase = .stopped := by decide

/-- Each clause of the acceptance of commands. -/
theorem witness_CommandsAreAccepted :
    (inPhase .stopped true false).i2cm.en = true ∧ (inPhase .stopped true false).clk.i2c = true ∧
    (inPhase .stopped true false).i2cm.busy = false ∧ (inPhase .stopped true false).fault = none ∧
    legal .stopped true .start = none ∧ (inPhase .started false false).i2cm.phase = .started ∧
    (inPhase .dataW false true).i2cm.nackf = false ∧ (inPhase .dataR false true).i2cm.phase = .dataR ∧
    (inPhase .addrR true false).i2cm.nackf = true ∧ CmdOp.stop.hasOperand = false := by decide

/-- Each clause of the UTX completions. -/
theorem witness_UtxInstructionsComplete :
    clocked.fault = none ∧ clocked.clk.utx = true ∧ clocked.utx.en = false ∧ clocked.params.pinsRoutedUtx = true ∧
    { clocked.utx with baud := 1#16 }.baud ≠ 0#16 ∧ afterInit.utx.en = true ∧ afterInit.utx.tdr = none ∧
    afterInit.utx.shift = none := by decide

/-- A state that meets the invariants with a command pending and bytes in flight; ENGINE's turn from it has a next
state. -/
theorem witness_StepKeepsInvariants :
    (withBytes (some 1#8) (some 2#8) (withPending .readNack (inPhase .dataR false true))).Inv ∧
    (got (step (turnOf .engine true 7#8 (withBytes (some 1#8) (some 2#8)
      (withPending .readNack (inPhase .dataR false true))))) fun t => t.i2cm.phase) = some .dataRLast := by decide

theorem witness_Reachable : Reachable exampleParams (State.resetWith exampleParams) ∧
    (State.resetWith exampleParams).fault = none := ⟨.reset, rfl⟩

/-- A state inside a read transaction whose trace is well formed; the step is ENGINE's. -/
theorem witness_StepKeepsTransactionGrammar :
    let s := turnOf .engine true 7#8 (withPending .readNack { inPhase .addrR false true with
      i2cm := { (inPhase .addrR false true).i2cm with busTrace := [.start, .byteOut 0xEF#8 true] } })
    s.Inv ∧ s.traceWellFormed ∧ (got (step s) fun t => t.i2cm.busTrace.length) = some 3 :=
  ⟨by decide, ⟨(.addrR, false), by decide, .inl (by decide)⟩, by decide⟩

/-- E7: a three-byte read; and the shortest one. -/
theorem witness_ReadLaw :
    grammarRun (.addrR, false) ([.byteIn 1#8 true, .byteIn 2#8 true, .byteIn 3#8 false] ++ [.stop]) =
      some (.stopped, false) ∧
    grammarRun (.addrR, false) ([.byteIn 1#8 false] ++ [.stop]) = some (.stopped, false) := by decide

/-- A write that ends ACKed, one that ends NACKed, and the empty one. -/
theorem witness_WriteLaw :
    grammarRun (.addrW, false) ([.byteOut 1#8 true, .byteOut 2#8 true] ++ [.stop]) = some (.stopped, false) ∧
    grammarRun (.addrW, false) ([.byteOut 1#8 true, .byteOut 2#8 false] ++ [.stop]) = some (.stopped, true) ∧
    grammarRun (.addrW, false) ([] ++ [.stop]) = some (.stopped, false) := by decide

theorem witness_UtxBytesInOrder :
    (got (exec (.stUtxData 0x1A2B#32) (withBytes none (some 1#8) afterInit)) fun t => (t.fault, t.utx.stream)) =
      some (none, [1#8, 0x2B#8]) ∧
    (turnOf .tx true 0#8 afterInit).choice.turn ≠ .host ∧
    (got (step (turnOf .tx true 0#8 (withBytes (some 2#8) (some 1#8) afterInit))) fun t => t.utx.stream) =
      some [1#8, 2#8] := by decide

theorem witness_TransmitterDrains :
    (withBytes (some 2#8) (some 1#8) afterInit).Inv ∧ (withBytes (some 2#8) (some 1#8) afterInit).utx.en = true := by
  decide

theorem witness_RxdataIsLastByteIn :
    afterInit.i2cm.rxdata = lastByteIn afterInit.i2cm.busTrace ∧
    (got (step (turnOf .engine true 7#8 (withPending .readAck (inPhase .addrR false true)))) fun t => t.i2cm.rxdata) =
      some (some 7#8) := by decide

/-- A step that grows each trace, and one that grows neither. -/
theorem witness_TracesOnlyGrow :
    (got (step (turnOf .engine true 7#8 (withPending .start afterInit))) fun t => t.i2cm.busTrace) = some [.start] ∧
    (got (step (turnOf .tx true 0#8 (withBytes none (some 1#8) afterInit))) fun t => t.utx.lineTrace) = some [1#8] ∧
    (got (step (hosting (.b 0) afterInit)) fun t => t.i2cm.busTrace) = some [] := by decide

/-- Hypotheses of the statements about faults: a stopped run, an instruction that faults, a step that faults. -/
theorem witness_Faults :
    ((turnOf .engine true 0#8 afterInit).withFault .unmapped 0x40000004#32 4 .read none none).fault =
      some { code := .unmapped, info := { addr := 0x40000004#32, width := 4, dir := .read, value := none },
             phase := none } ∧
    faultNo (exec .i2cStop (inPhase .dataR false true)) = some 12 ∧
    faultNo (step (hosting (.encoded (.cmd 6#32)) (inPhase .dataR false true))) = some 12 := by decide

theorem witness_ReadsHaveNoSideEffect :
    Instr.ldUtxStatus ∈ readInstrs ∧
    (got (exec .ldUtxStatus (withBytes (some 1#8) none afterInit)) fun t => t.fault) = some none := by decide

theorem witness_InstructionFrame :
    (got (exec (.stUtxData 1#32) afterInit) fun t => t.utx.tdr) = some (some 1#8) ∧
    instrUnit (.stUtxData 1#32) ≠ .clk ∧ instrUnit (.stUtxData 1#32) ≠ .i2cm ∧ instrUnit .i2cStart ≠ .utx ∧
    Instr.stUtxData 1#32 ∉ readInstrs ∧ Instr.ldI2cmRxdata ∈ readInstrs ∧
    (got (exec .ldI2cmRxdata clocked) fun t => t.fault.isSome) = some true ∧
    (got (exec .ldUtxStatus afterInit) fun t => t.readData) = some 3#32 := by decide

theorem witness_CommandFrame :
    (got (exec (.stI2cmCmd 1#32) afterInit) fun t => t.i2cm.pending) = some (some .start) ∧
    (got (exec (.reservedOp7 0#29) afterInit) fun t => t.fault.isSome) = some true := by decide

theorem witness_StepRunsDecodedInstruction :
    let s := hosting (.encoded (.acc 0x2000#16 1#32)) clocked
    s.fault = none ∧ s.choice.turn = .host ∧ s.host.program[s.host.pc]? = some (.encoded (.acc 0x2000#16 1#32)) ∧
    decode (.acc 0x2000#16 1#32) = .ok (.stClkClken 1#32) := by decide

theorem witness_LoadAndStoreAreAccesses :
    clocked.fault = none ∧ clocked.choice.turn = .host ∧ clocked.params.basesWf = true ∧
    (hosting (.ld 7 .utxStatus) clocked).host.program[(hosting (.ld 7 .utxStatus) clocked).host.pc]? =
      some (.ld 7 .utxStatus) ∧
    (hosting (.st .utxBaud (.reg 0)) clocked).host.program[(hosting (.st .utxBaud (.reg 0)) clocked).host.pc]? =
      some (.st .utxBaud (.reg 0)) := by decide

/-- The host's own operations, each first in its program; and the arithmetic at its edges (R101). -/
theorem witness_HostArithmetic :
    clocked.fault = none ∧ clocked.choice.turn = .host ∧
    (got (step (hosting (.shl 1 0 32) clocked)) fun t => t.host.regs[1]) = some 0#32 ∧
    (got (step (hosting (.dec 0) clocked)) fun t => t.host.regs[0]) = some 0xFFFFFFFF#32 ∧
    (got (step (hosting (.bnz 0 5) clocked)) fun t => t.host.pc) = some 1 ∧
    (got (step (hosting (.bne 0 1#32 5) clocked)) fun t => t.host.pc) = some 5 := by decide

theorem witness_PseudoInstructionsTranscribe :
    exampleParams.divisorsFit = true ∧ exampleParams.delayFits = true ∧ Pseudo.send 7 ≠ .init ∧ Pseudo.send 7 ≠ .pollLoop ∧
    Pseudo.init ≠ .pollLoop := by decide

/-- ENGINE's turn with a command pending after a trace, SLAVE answering a and d. -/
def sensing (c : Command) (trace : List BusEvent) (a : Bool) (d : Byte) : State :=
  let s := turnOf .engine a d (withPending c afterInit)
  { s with i2cm := { s.i2cm with busTrace := trace } }

/-- The sensor, selected at 0x34, has acknowledged its read address. -/
def readTrace : List BusEvent :=
  [.start, .byteOut 0xEE#8 true, .byteOut 0x34#8 true, .stop, .start, .byteOut 0xEF#8 true]

/-- Each clause of the sensor's answers: its own address, another one, a register byte, the sample's two bytes. -/
theorem witness_SensorAnswers :
    (∀ c trace a d, (sensing c trace a d).fault = none ∧ (sensing c trace a d).choice.turn = .engine ∧
      (sensing c trace a d).i2cm.busy = true ∧ (sensing c trace a d).i2cm.pending = some c) ∧
    SensorSlave (fun _ _ => 0x1A2B#16) (sensing (.addr 0xEE#8) [.start] true 0#8) ∧
    SensorSlave (fun _ _ => 0x1A2B#16) (sensing (.addr 0xF0#8) [.start] false 0#8) ∧
    SensorSlave (fun _ _ => 0x1A2B#16) (sensing (.write 0x34#8) [.start, .byteOut 0xEE#8 true] true 0#8) ∧
    SensorSlave (fun _ _ => 0x1A2B#16) (sensing .readAck readTrace true 0x1A#8) ∧
    SensorSlave (fun _ _ => 0x1A2B#16) (sensing .readNack (readTrace ++ [.byteIn 0x1A#8 true]) true 0x2B#8) ∧
    sensorView 0x77#7 [.start, .byteOut 0xEE#8 true] = ⟨false, some .write, none, 0, 0⟩ ∧
    sensorView 0x77#7 readTrace = ⟨false, some .read, some 0x34#8, 1, 0⟩ ∧
    sensorView 0x77#7 (readTrace ++ [.byteIn 0x1A#8 true]) = ⟨false, some .read, some 0x34#8, 1, 1⟩ := by
  have first : sampleByte 0x1A2B#16 ((sensorView 0x77#7 readTrace).sent + 1) = 0x1A#8 := by decide
  have second : sampleByte 0x1A2B#16 ((sensorView 0x77#7 (readTrace ++ [.byteIn 0x1A#8 true])).sent + 1) = 0x2B#8 := by
    decide
  exact ⟨fun _ _ _ _ => ⟨rfl, rfl, rfl, rfl⟩, ⟨rfl, fun _ => ⟨rfl, rfl⟩⟩, ⟨rfl, fun _ => ⟨rfl, rfl⟩⟩,
    ⟨rfl, fun _ => ⟨rfl, fun _ => rfl⟩⟩, ⟨rfl, fun _ => ⟨rfl, fun _ _ _ _ => first.symm⟩⟩,
    ⟨rfl, fun _ => ⟨rfl, fun _ _ _ _ => second.symm⟩⟩, by decide⟩

theorem witness_EndOfRunIsFinal : afterInit.atEnd := ⟨rfl, rfl, rfl, rfl, rfl⟩

theorem witness_ParametersAreConstant :
    (got (step (hosting (.mov 2 9#32) afterInit)) fun t => (t.host.regs[2], t.params.baudRate)) = some (9#32, 9600) := by
  decide

end Sys2Proof.Tests
end

section
/-! SUPPORT. Proofs of family 20_memory: how a host access is decoded and checked (20_memory R61, R64, R65), and that a
read has no side effect (R67). -/

namespace Sys2Proof.Machine

/-- The model subtracts words, R61 naturals: from an address at or above the base they agree. -/
theorem setWidth_sub_eq_ofNat {base addr : Word} (h : base.toNat ≤ addr.toNat) :
    (addr - base).setWidth 8 = BitVec.ofNat 8 (addr.toNat - base.toNat) := by
  apply BitVec.eq_of_toNat_eq
  rw [BitVec.toNat_setWidth, BitVec.toNat_ofNat, BitVec.toNat_sub_of_le h]

/-- Settles O5: the windows are tried in the same order, and where one is hit its offset does not wrap. -/
theorem addressDecoding : Obligations.AddressDecoding := by
  intro p addr
  simp only [decodeAddr, inWindow_iff]
  split
  case isTrue hclk => rw [setWidth_sub_eq_ofNat hclk.1]
  case isFalse =>
    split
    case isTrue hi2cm => rw [setWidth_sub_eq_ofNat hi2cm.1]
    case isFalse =>
      split
      case isTrue hutx => rw [setWidth_sub_eq_ofNat hutx.1]
      case isFalse => rfl

theorem recordedValue_eq (d : Direction) (v : Word) : recordedValue d v = if d = .write then some v else none := by
  cases d <;> rfl

/-- R64's refusal of an access to a window. -/
theorem memAccess_badWidth {addr : Word} {n : Nat} {s : State} {u : BlockUnit} {off : Byte} (hf : s.fault = none)
    (ha : decodeAddr s.params addr = some (u, off)) (hb : badWidth addr n = true) (d : Direction) (v : Word) :
    memAccess addr n d v s = .next (s.withFault .badWidth addr n d (recordedValue d v) none) := by
  simp only [memAccess, ha, hb, whileRunning_running hf]
  rfl

/-- An access to a window that passes R64 is the access of its descriptor (R81). -/
theorem memAccess_aligned {addr : Word} {n : Nat} {s : State} {u : BlockUnit} {off : Byte}
    (ha : decodeAddr s.params addr = some (u, off)) (hb : badWidth addr n = false) (d : Direction) (v : Word) :
    memAccess addr n d v s = performAccess (.acc (accDesc u d off) v) s := by
  simp only [memAccess, ha, hb]
  rfl

/-- Settles O6: `badWidth` is the spec's condition, and F03's record holds the recorded value of the access. -/
theorem onlyAlignedWords : Obligations.OnlyAlignedWords := by
  intro addr n d v s u off hf ha
  constructor
  · intro hbad
    exact ⟨recordedValue d v, fun _ => recordedValue_eq d v,
      memAccess_badWidth hf ha ((badWidth_iff addr n).mpr hbad) d v⟩
  · intro hn halign
    have hb : badWidth addr n = false := by
      rw [← Bool.not_eq_true, badWidth_iff]
      simp [hn, halign]
    exact memAccess_aligned ha hb d v

/-- R82 to R84: past the last register of a window there is none. -/
theorem regAt_eq_none {u : BlockUnit} {off : Byte}
    (h : (u = .clk ∧ 0x04 ≤ off.toNat) ∨ (u = .i2cm ∧ 0x18 ≤ off.toNat) ∨ (u = .utx ∧ 0x14 ≤ off.toNat)) :
    regAt u off = none := by
  have ne_of_lt {bound : Nat} (hb : bound ≤ off.toNat) (k : Byte) (hk : k.toNat < bound) : off ≠ k := by
    rintro rfl
    omega
  obtain ⟨rfl, hb⟩ | ⟨rfl, hb⟩ | ⟨rfl, hb⟩ := h
  · simp [regAt, ne_of_lt hb]
  · simp [regAt, ne_of_lt hb]
  · simp [regAt, ne_of_lt hb]

/-- R65: an offset without a register raises F02, whatever the direction and the clock. -/
theorem performAccess_unmapped {u : BlockUnit} {off : Byte} {s : State} (hf : s.fault = none)
    (hr : regAt u off = none) (d : Direction) (v : Word) :
    performAccess (.acc (accDesc u d off) v) s =
      .next (s.withFault .unmapped (s.params.base u + off.setWidth 32) 4 d (recordedValue d v) none) := by
  obtain ⟨-, -, -, hd⟩ := accDesc_fields u d off
  simp only [performAccess, decode_accDesc, hr, refuseEncoding, whileRunning_running hf, hd]
  rfl

/-- R65, R164: once the clock check is passed, an access that the decoder refuses for its direction raises the fault it
is refused with; `hrefuse` is that refusal. -/
theorem memAccess_wrongDirection {r : RegName} {d : Direction} {v : Word} {c : FaultCode} {s : State}
    (hrefuse : performAccess (.acc (accDesc r.unit d r.off) v) s = hostAccess r d (recordedValue d v) (.error c) s)
    (hc : c.recordsPhase = false) (hf : s.fault = none) (hw : s.params.basesWf = true) (hg : s.gated r.unit = false) :
    memAccess (s.params.base r.unit + r.off.setWidth 32) 4 d v s =
      .next (s.withFault c (s.params.base r.unit + r.off.setWidth 32) 4 d (recordedValue d v) none) := by
  have ho : r.off.toNat % 4 = 0 := by cases r <;> rfl
  rw [memAccess_base hw r.unit ho, hrefuse, hostAccess_clocked hf hg, conclude_error, State.raise_eq, hc]
  rfl

/-- Settles O7: an empty offset by `performAccess_unmapped`, the refused directions by
`memAccess_wrongDirection`. -/
theorem unmappedAndWrongDirection : Obligations.UnmappedAndWrongDirection := by
  intro s v hf hw
  have gated_i2cm (hc : s.clk.i2c = true) : s.gated .i2cm = false := by simp [State.gated, hc]
  have gated_utx (hc : s.clk.utx = true) : s.gated .utx = false := by simp [State.gated, hc]
  refine ⟨?unmapped, ?i2cmWrite, ?utxWrite, ?i2cmRead, ?utxRead⟩
  case unmapped =>
    intro u off d ho hoff
    rw [memAccess_base hw u ho, performAccess_unmapped hf (regAt_eq_none hoff), recordedValue_eq]
  case i2cmWrite =>
    rintro hc off (rfl | rfl)
    · exact memAccess_wrongDirection (r := .i2cmStatus) rfl rfl hf hw (gated_i2cm hc)
    · exact memAccess_wrongDirection (r := .i2cmRxdata) rfl rfl hf hw (gated_i2cm hc)
  case utxWrite =>
    intro hc
    exact memAccess_wrongDirection (r := .utxStatus) rfl rfl hf hw (gated_utx hc)
  case i2cmRead =>
    intro hc
    exact memAccess_wrongDirection (r := .i2cmCmd) rfl rfl hf hw (gated_i2cm hc)
  case utxRead =>
    intro hc
    exact memAccess_wrongDirection (r := .utxData) rfl rfl hf hw (gated_utx hc)

/-- s with the host, the last-read word and the model's free values replaced: all that may differ between two reads of a
register with no step of ENGINE or TX between them (R67; log 2, 8). -/
def State.withHostSide (h : HostState) (w : Word) (c : Choice) (k : Nat) (s : State) : State :=
  { s with host := h, readData := w, choice := c, tick := k }

/-- A read is the read of one register, and what it returns is a function of the units alone. -/
theorem exec_eq_hostRead {i : Instr} (hi : i ∈ readInstrs) :
    ∃ (r : RegName) (result : State → Except FaultCode Word), (∀ s, exec i s = hostRead r (result s) s) ∧
      ∀ s h w c k, result (s.withHostSide h w c k) = result s := by
  simp only [readInstrs, List.mem_cons, List.not_mem_nil, or_false] at hi
  obtain rfl | rfl | rfl | rfl | rfl | rfl | rfl | rfl | rfl | rfl := hi
  · exact ⟨.clkClken, fun s => .ok (clkenWord s.clk), fun _ => rfl, fun _ _ _ _ _ => rfl⟩
  · exact ⟨.i2cmCtrl, fun s => .ok (enableWord s.i2cm.en), fun _ => rfl, fun _ _ _ _ _ => rfl⟩
  · exact ⟨.i2cmClkdiv, fun s => .ok (s.i2cm.clkdiv.setWidth 32), fun _ => rfl, fun _ _ _ _ _ => rfl⟩
  · exact ⟨.i2cmOwnaddr, fun s => .ok (s.i2cm.ownaddr.setWidth 32), fun _ => rfl, fun _ _ _ _ _ => rfl⟩
  · exact ⟨.i2cmStatus, fun s => .ok (i2cmStatusWord s.i2cm), fun _ => rfl, fun _ _ _ _ _ => rfl⟩
  · exact ⟨.i2cmRxdata, i2cmRxdataRead, fun _ => rfl, fun _ _ _ _ _ => rfl⟩
  · exact ⟨.utxCtrl, fun s => .ok (enableWord s.utx.en), fun _ => rfl, fun _ _ _ _ _ => rfl⟩
  · exact ⟨.utxBaud, fun s => .ok (s.utx.baud.setWidth 32), fun _ => rfl, fun _ _ _ _ _ => rfl⟩
  · exact ⟨.utxFrame, fun s => .ok (s.utx.frame.setWidth 32), fun _ => rfl, fun _ _ _ _ _ => rfl⟩
  · exact ⟨.utxStatus, fun s => .ok (utxStatusWord s.utx), fun _ => rfl, fun _ _ _ _ _ => rfl⟩

/-- A read that leaves FAULT clear had its unit clocked and a word to return. -/
theorem hostRead_unfaulted {r : RegName} {result : Except FaultCode Word} {s t : State}
    (h : hostRead r result s = .next t) (ht : t.fault = none) :
    s.fault = none ∧ s.gated r.unit = false ∧ ∃ w, result = .ok w ∧ t = { s with readData := w } := by
  obtain ⟨hf, ⟨c, rfl, -⟩ | hread⟩ := hostRead_next h
  · cases ht
  · exact ⟨hf, hread⟩

/-- Settles O51: the read's word and its clock check look at the units alone, so the same read passes again. -/
theorem readsHaveNoSideEffect : Obligations.ReadsHaveNoSideEffect := by
  intro i s t hi hexec ht
  obtain ⟨r, result, hread, hsame⟩ := exec_eq_hostRead hi
  rw [hread] at hexec
  obtain ⟨hf, hg, word, hword, rfl⟩ := hostRead_unfaulted hexec ht
  refine ⟨rfl, fun h w c k => ?_⟩
  have hf' : (s.withHostSide h w c k).fault = none := hf
  have hg' : (s.withHostSide h w c k).gated r.unit = false := hg
  calc exec i (s.withHostSide h w c k)
      = hostRead r (.ok word) (s.withHostSide h w c k) := by rw [hread, hsame, hword]
    _ = .next { s.withHostSide h w c k with readData := word } := hostRead_clocked hf' hg'

end Sys2Proof.Machine
end

section
/-! SUPPORT. Proofs of family 40_clock_control: CLKEN's read and write (R103, R104), and what a gated unit does
(R105). -/

namespace Sys2Proof.Machine

/-- R103's word in arithmetic. -/
theorem clkenWord_eq (c : ClkState) :
    clkenWord c = BitVec.ofNat 32 ((if c.utx then 2 else 0) + (if c.i2c then 1 else 0)) := by
  obtain ⟨i2c, utx⟩ := c
  cases i2c <;> cases utx <;> rfl

/-- Settles O11: the CLK window is never gated, so the read returns CLKEN's word. -/
theorem clkenRead : Obligations.ClkenRead := by
  refine ⟨rfl, fun s hf => ?_⟩
  rw [← clkenWord_eq]
  exact hostRead_clocked hf rfl

/-- R85: CLKEN's reserved bits are [31:2]. -/
theorem clkenReserved_iff (v : Word) : clkenReserved v = true ↔ 4 ≤ v.toNat := by
  have hv := v.isLt
  simp only [clkenReserved, bne_iff_ne, ne_eq, ← BitVec.toNat_inj, BitVec.extractLsb'_toNat, BitVec.toNat_ofNat,
    Nat.shiftRight_eq_div_pow]
  omega

theorem getLsbD_zero_eq_decide (v : Word) : v.getLsbD 0 = decide (v.toNat % 2 = 1) := by
  simp [BitVec.getLsbD, Nat.testBit_zero]

/-- Of a value without reserved bits, bit 1 is the upper one. -/
theorem getLsbD_one_eq_decide {v : Word} (h : v.toNat < 4) : v.getLsbD 1 = decide (2 ≤ v.toNat) := by
  rw [BitVec.getLsbD, Nat.testBit_succ, Nat.testBit_zero, decide_eq_decide]
  omega

/-- R104's pseudocode in arithmetic. -/
theorem clkenWrite_eq (v : Word) (s : State) :
    clkenWrite v s =
      if 4 ≤ v.toNat then .error .reservedBits
      else if v.toNat % 2 = 0 ∧ s.i2cm.en = true then .error .clockOffWhileEnabled
      else if v.toNat < 2 ∧ s.utx.en = true then .error .clockOffWhileEnabled
      else .ok { s with clk := { i2c := decide (v.toNat % 2 = 1), utx := decide (2 ≤ v.toNat) } } := by
  simp only [clkenWrite, clkenReserved_iff]
  by_cases hv : 4 ≤ v.toNat
  · simp [hv]
  · simp only [hv, if_false, getLsbD_zero_eq_decide, getLsbD_one_eq_decide (Nat.lt_of_not_le hv), Bool.and_eq_true,
      Bool.not_eq_true', decide_eq_false_iff_not, Nat.mod_two_not_eq_one, Nat.not_le]

/-- R104 raises F06 and F18 alone. -/
theorem clkenWrite_error_ne_clockGated {v : Word} {s : State} {c : FaultCode} (h : clkenWrite v s = .error c) :
    c ≠ .clockGated := by
  rw [clkenWrite_eq] at h
  split_ifs at h
  all_goals
    cases h
    decide

/-- R105: the CLK window is never gated, so a CLKEN write ends as R104's pseudocode does. -/
theorem exec_stClkClken (v : Word) {s : State} (hf : s.fault = none) :
    exec (.stClkClken v) s = .next (conclude (accessInfo .clkClken .write (some v) s) s (clkenWrite v s)) :=
  hostWrite_clocked hf rfl

/-- R82: CLKEN stands at the window's base. -/
theorem base_clkClken (p : Params) : p.base RegName.clkClken.unit + RegName.clkClken.off.setWidth 32 = p.clkBase :=
  BitVec.add_zero p.clkBase

/-- Settles O12: the write ends as `clkenWrite_eq` says. Unqualified, `clkenWrite` names R104's pseudocode. -/
theorem ClockControl.clkenWrite : Obligations.ClkenWrite := by
  intro v s hf
  refine ⟨rfl, ?_⟩
  have raise_eq (c : FaultCode) (hc : c.recordsPhase = false) :
      s.raise c (accessInfo .clkClken .write (some v) s) = s.withFault c s.params.clkBase 4 .write (some v) none := by
    rw [State.raise_eq, hc, accessInfo, base_clkClken]
    rfl
  rw [exec_stClkClken v hf, clkenWrite_eq]
  split_ifs
  · rw [conclude_error, raise_eq _ rfl]
  · rw [conclude_error, raise_eq _ rfl]
  · rw [conclude_error, raise_eq _ rfl]
  · rfl

/-- R164: whatever the decoder makes of an access to a register, even in a refused direction, passes the register's
clock check first. -/
theorem performAccess_register (r : RegName) (d : Direction) (v : Word) (s : State) :
    ∃ body, performAccess (.acc (accDesc r.unit d r.off) v) s = hostAccess r d (recordedValue d v) body s := by
  simp only [performAccess, decode_accDesc, regAt_off]
  cases r <;> cases d <;> exact ⟨_, rfl⟩

/-- R105: every access to a register of a gated unit raises F01. -/
theorem performAccess_gated {r : RegName} {u : BlockUnit} {s : State} (hu : r.unit = u) (hf : s.fault = none)
    (hg : s.gated u = true) (d : Direction) (v : Word) :
    performAccess (.acc (accDesc u d r.off) v) s =
      .next (s.withFault .clockGated (s.params.base u + r.off.setWidth 32) 4 d
        (if d = .write then some v else none) none) := by
  subst hu
  obtain ⟨body, hbody⟩ := performAccess_register r d v s
  rw [hbody, hostAccess_gated hf hg, State.raise_eq, recordedValue_eq]
  rfl

/-- R105: the CLK window's write never raises F01. -/
theorem exec_stClkClken_code {v : Word} {s t : State} {f : FaultRecord} (hf : s.fault = none)
    (h : exec (.stClkClken v) s = .next t) (ht : t.fault = some f) : f.code ≠ .clockGated := by
  rw [exec_stClkClken v hf] at h
  cases h
  cases hbody : clkenWrite v s with
  | error c =>
    rw [hbody, conclude_error, State.raise_fault] at ht
    cases ht
    exact clkenWrite_error_ne_clockGated hbody
  | ok u =>
    obtain ⟨rfl, -, -⟩ := clkenWrite_ok hbody
    rw [hbody, conclude_ok, hf] at ht
    cases ht

/-- R44 items 6 and 4: a gated I2CM is disabled, so no command is pending in it. -/
theorem engineStep_gated {s : State} (hinv : s.Inv) (hg : s.clk.i2c = false) : engineStep s = s := by
  obtain ⟨⟨-, -, -, hrest, -, hclocked, -⟩, -⟩ := hinv
  have hen : s.i2cm.en = false := by
    rw [← Bool.not_eq_true]
    intro he
    simp [hclocked he] at hg
  obtain hsame | ⟨hbusy, -⟩ := engineStep_cases s
  · exact hsame
  · simp [(hrest hen).1] at hbusy

/-- R44 items 6, 5 and 2: a gated UTX is disabled, so it holds no byte. -/
theorem txUnitStep_gated {s : State} (hinv : s.Inv) (hg : s.clk.utx = false) : txUnitStep s.utx = s.utx := by
  obtain ⟨⟨-, htc, -, -, hcomplete, -, hclocked⟩, -⟩ := hinv
  have hen : s.utx.en = false := by
    rw [← Bool.not_eq_true]
    intro he
    simp [hclocked he] at hg
  obtain ⟨htdr, hshift⟩ := htc.mp (hcomplete hen)
  obtain ⟨hsame, -⟩ | ⟨x, -, hload, -⟩ | ⟨x, hout, -⟩ := txUnitStep_cases s.utx
  · exact hsame
  · simp [htdr] at hload
  · simp [hshift] at hout

/-- R105: gating a unit keeps every state element of it. -/
theorem exec_stClkClken_units {v : Word} {s t : State} (h : exec (.stClkClken v) s = .next t) :
    t.i2cm = s.i2cm ∧ t.utx = s.utx := by
  obtain ⟨-, ⟨c, info, rfl⟩ | ⟨rfl, -⟩⟩ := exec_next h
  · exact ⟨rfl, rfl⟩
  · exact ⟨rfl, rfl⟩

/-- Settles O10: the clock check comes before the register's own part, and by R44 a gated unit has no step to take. -/
theorem gatedUnit : Obligations.GatedUnit := by
  intro s hf
  refine ⟨?i2cm, ?utx, ?clk, ?engine, ?tx, fun v t => exec_stClkClken_units⟩
  case i2cm =>
    intro hg r d v hr
    exact performAccess_gated hr hf (by simp [State.gated, hg]) d v
  case utx =>
    intro hg r d v hr
    exact performAccess_gated hr hf (by simp [State.gated, hg]) d v
  case clk =>
    rintro i t f (rfl | ⟨v, rfl⟩) h ht
    · rw [clkenRead.2 s hf] at h
      cases h
      simp [hf] at ht
    · exact exec_stClkClken_code hf h ht
  case engine =>
    intro hinv hg
    rw [engineStep_gated hinv hg]
  case tx =>
    intro hinv hg
    exact txUnitStep_gated hinv hg

end Sys2Proof.Machine
end

section
/-! SUPPORT. Proofs of family 41_i2c_config: I2CM's reads (R106, R108, R111, R113, R114), the CTRL write (R107), and the
CLKDIV and OWNADDR writes (R109, R112). -/

namespace Sys2Proof.Machine

/-- R105, R164: an access to an I2CM register raises F01 at the register's address, or ends as its pseudocode does. -/
theorem hostAccess_i2cm {r : RegName} {d : Direction} {v : Option Word} {body : Except FaultCode State} {s : State}
    {addr : Word} (hf : s.fault = none) (hu : r.unit = .i2cm)
    (haddr : s.params.i2cmBase + r.off.setWidth 32 = addr) :
    hostAccess r d v body s = .next (
      if s.clk.i2c = false then s.withFault .clockGated addr 4 d v none
      else conclude { addr := addr, width := 4, dir := d, value := v } s body) := by
  have hinfo : accessInfo r d v s = { addr := addr, width := 4, dir := d, value := v } := by
    rw [accessInfo, hu, ← haddr]
    rfl
  rw [← hinfo]
  split_ifs with hclk
  · rw [hostAccess_gated hf (by simp [hu, State.gated, hclk]), State.raise_eq, hinfo]
    rfl
  · exact hostAccess_clocked hf (by simpa [hu, State.gated] using hclk)

/-- R83: CTRL stands at the window's base. -/
theorem i2cmBase_add_ctrlOff (p : Params) : p.i2cmBase + RegName.i2cmCtrl.off.setWidth 32 = p.i2cmBase :=
  BitVec.add_zero p.i2cmBase

/-- R86's word in arithmetic. -/
theorem enableWord_eq (en : Bool) : enableWord en = if en then 1#32 else 0#32 := by
  cases en <;> rfl

/-- R90's layout in arithmetic. -/
theorem i2cmStatusWord_eq (m : I2cmState) :
    i2cmStatusWord m = BitVec.ofNat 32 (16 * m.phase.code.toNat +
      (if m.nackf then 4 else 0) + (if m.ack then 2 else 0) + (if m.busy then 1 else 0)) := by
  rw [i2cmStatusWord]
  generalize m.nackf = nackf, m.ack = ack, m.busy = busy
  revert nackf ack busy
  cases m.phase <;> decide

/-- Settles O13: each read returns its word, written in arithmetic; RXDATA alone may have none to return. -/
theorem i2cmReads : Obligations.I2cmReads := by
  refine ⟨rfl, rfl, rfl, rfl, rfl, fun s hf => ⟨?ctrl, ?clkdiv, ?ownaddr, ?status, ?rxdata⟩⟩
  case ctrl =>
    rw [← enableWord_eq]
    exact hostAccess_i2cm hf rfl (i2cmBase_add_ctrlOff s.params)
  case clkdiv =>
    rw [BitVec.ofNat_toNat]
    exact hostAccess_i2cm hf rfl rfl
  case ownaddr =>
    rw [BitVec.ofNat_toNat]
    exact hostAccess_i2cm hf rfl rfl
  case status =>
    refine (hostAccess_i2cm (r := .i2cmStatus) hf rfl rfl).trans ?_
    rw [i2cmStatusWord_eq]
    cases s.i2cm.phase <;> rfl
  case rxdata =>
    refine (hostAccess_i2cm (r := .i2cmRxdata) hf rfl rfl).trans ?_
    simp only [i2cmRxdataRead, BitVec.ofNat_toNat]
    cases s.i2cm.rxdata with
    | none => rfl
    | some b => rfl

/-- The bits of a word from position k up are zero exactly below 2^k. -/
theorem upperBits_ne_zero_iff (v : Word) {k n : Nat} (h : k + n = 32) :
    (v.extractLsb' k n != 0#n) = true ↔ 2 ^ k ≤ v.toNat := by
  have hlt : v.toNat / 2 ^ k < 2 ^ n := Nat.div_lt_of_lt_mul (by rw [← pow_add, h]; exact v.isLt)
  rw [bne_iff_ne, ne_eq, ← BitVec.toNat_inj, BitVec.extractLsb'_toNat, Nat.shiftRight_eq_div_pow,
    Nat.mod_eq_of_lt hlt, BitVec.toNat_ofNat, Nat.zero_mod, Nat.div_eq_zero_iff]
  simp

/-- R86: CTRL's reserved bits are [31:1]. -/
theorem ctrlReserved_iff (v : Word) : ctrlReserved v = true ↔ 2 ≤ v.toNat :=
  upperBits_ne_zero_iff v rfl

/-- R87: CLKDIV's reserved bits are [31:16]. -/
theorem upperReserved_iff (v : Word) : upperReserved v = true ↔ 65536 ≤ v.toNat :=
  upperBits_ne_zero_iff v rfl

/-- R88: OWNADDR's reserved bits are [31:7]. -/
theorem ownaddrReserved_iff (v : Word) : ownaddrReserved v = true ↔ 128 ≤ v.toNat :=
  upperBits_ne_zero_iff v rfl

/-- R115: a transaction is open in every phase but IDLE and STOPPED. -/
theorem Phase.not_atRest_iff (p : Phase) : (!p.atRest) = true ↔ p ≠ .idle ∧ p ≠ .stopped := by
  cases p <;> simp [Phase.atRest]

/-- A CTRL value without reserved bits is EN alone. -/
theorem word_eq_zero_or_one {v : Word} (h : v.toNat < 2) : v = 0#32 ∨ v = 1#32 := by
  simp only [← BitVec.toNat_inj, BitVec.toNat_ofNat]
  omega

/-- R107's pseudocode in arithmetic. -/
theorem i2cmCtrlWrite_eq (v : Word) (s : State) :
    i2cmCtrlWrite v s =
      if 2 ≤ v.toNat then .error .reservedBits
      else if s.i2cm.en = false ∧ v = 1#32 then
        if s.i2cm.clkdiv = 0#16 then .error .unsupportedConfig
        else if s.params.pinsRoutedI2c = false then .error .pinsNotRouted
        else .ok { s with i2cm := { s.i2cm with en := true, phase := .idle, ack := false, nackf := false } }
      else if s.i2cm.en = true ∧ v = 0#32 then
        if s.i2cm.busy = true ∨ (s.i2cm.phase ≠ .idle ∧ s.i2cm.phase ≠ .stopped) then .error .disableWhileActive
        else .ok { s with i2cm := { s.i2cm with en := false } }
      else .ok s := by
  simp only [i2cmCtrlWrite, ctrlReserved_iff, Bool.or_eq_true, Phase.not_atRest_iff]
  by_cases hv : 2 ≤ v.toNat
  · simp only [hv, if_true]
  · simp only [hv, if_false]
    obtain rfl | rfl := word_eq_zero_or_one (Nat.lt_of_not_le hv)
    · cases s.i2cm.en <;> simp
    · cases s.i2cm.en <;> simp

/-- Settles O14: the write ends as `i2cmCtrlWrite_eq` says. Unqualified, `i2cmCtrlWrite` names R107's pseudocode. -/
theorem I2cConfig.i2cmCtrlWrite : Obligations.I2cmCtrlWrite := by
  intro v s hf
  refine ⟨rfl, (hostAccess_i2cm (r := .i2cmCtrl) hf rfl (i2cmBase_add_ctrlOff s.params)).trans ?_⟩
  simp only [i2cmCtrlWrite_eq, apply_ite (conclude _ s), conclude_ok]
  rfl

/-- Settles O15: the reserved bits and the fields of both registers in arithmetic. -/
theorem i2cmConfigWrites : Obligations.I2cmConfigWrites := by
  intro v s hf
  refine ⟨rfl, rfl, ?clkdiv, ?ownaddr⟩
  case clkdiv =>
    refine (hostAccess_i2cm (r := .i2cmClkdiv) hf rfl rfl).trans ?_
    simp only [i2cmClkdivWrite, upperReserved_iff, apply_ite (conclude _ s), conclude_ok]
    rfl
  case ownaddr =>
    refine (hostAccess_i2cm (r := .i2cmOwnaddr) hf rfl rfl).trans ?_
    simp only [i2cmOwnaddrWrite, ownaddrReserved_iff, apply_ite (conclude _ s), conclude_ok]
    rfl

end Sys2Proof.Machine
end

section
/-! SUPPORT. Proofs of family 42_i2c_commands: a command's issue (R116), the legality function (R117), the six commands
(R118 to R123), and ENGINE's step (R124). -/

namespace Sys2Proof.Machine

/-- The command an OP code names, in arithmetic (R97); it speaks of the codes 1 to 6 alone (`cmdOpOf_eq`). -/
def opOfNat (k : Nat) : CmdOp :=
  if k = 1 then .start else if k = 2 then .addr else if k = 3 then .write else if k = 4 then .readAck
  else if k = 5 then .readNack else .stop

/-- R97: the codes 0 and 7 are reserved. -/
theorem cmdOpOf_eq (o : BitVec 3) :
    cmdOpOf o = if o.toNat = 0 ∨ o.toNat = 7 then none else some (opOfNat o.toNat) := by
  revert o
  decide

/-- R98: ADDR and WRITE have an operand byte. -/
theorem opOfNat_hasOperand (k : Nat) : (opOfNat k).hasOperand = true ↔ k = 2 ∨ k = 3 := by
  unfold opOfNat
  split_ifs <;> simp [CmdOp.hasOperand, *]

/-- R116: what becomes PENDING, by the code. -/
theorem opOfNat_command (k : Nat) (b : Byte) :
    (opOfNat k).command b =
      if k = 1 then .start else if k = 2 then .addr b else if k = 3 then .write b else if k = 4 then .readAck
      else if k = 5 then .readNack else .stop := by
  unfold opOfNat
  split_ifs <;> rfl

/-- R89: OP is the word modulo 8. -/
theorem cmdOp_toNat (v : Word) : (cmdOp v).toNat = v.toNat % 8 := by
  simp [cmdOp, BitVec.extractLsb'_toNat]

/-- R89: CMD's reserved bits are [31:16] and [7:3]. -/
theorem cmdReserved_iff (v : Word) : cmdReserved v = true ↔ v.extractLsb 31 16 ≠ 0 ∨ v.extractLsb 7 3 ≠ 0 := by
  rw [cmdReserved, Bool.or_eq_true, bne_iff_ne, bne_iff_ne]
  rfl

/-- R116's pseudocode in arithmetic. -/
theorem cmdIssue_eq (v : Word) (s : State) :
    cmdIssue v s =
      if v.extractLsb 31 16 ≠ 0 ∨ v.extractLsb 7 3 ≠ 0 then .error .reservedBits
      else if s.i2cm.en = false then .error .notEnabled
      else if s.i2cm.busy = true then .error .cmdWhileBusy
      else if v.toNat % 8 = 0 ∨ v.toNat % 8 = 7 then .error .illegalCommand
      else if v.toNat % 8 ≠ 2 ∧ v.toNat % 8 ≠ 3 ∧ v.extractLsb 15 8 ≠ 0 then .error .reservedBits
      else (legal s.i2cm.phase s.i2cm.nackf (opOfNat (v.toNat % 8))).elim
        (.ok (accept ((opOfNat (v.toNat % 8)).command (v.extractLsb 15 8)) s)) .error := by
  have hbyte : cmdByte v = v.extractLsb 15 8 := rfl
  simp only [cmdIssue, cmdReserved_iff, cmdOpOf_eq, cmdOp_toNat, hbyte]
  by_cases hop : v.toNat % 8 = 0 ∨ v.toNat % 8 = 7
  · simp only [if_pos hop]
  · simp only [if_neg hop, Bool.and_eq_true, Bool.not_eq_true', ← Bool.not_eq_true, opOfNat_hasOperand, bne_iff_ne,
      not_or, and_assoc]
    cases legal s.i2cm.phase s.i2cm.nackf (opOfNat (v.toNat % 8)) <;> rfl

/-- What a CMD write of v leads to once R117 has spoken: the command is pending, or F11 to F14 record PHASE. -/
def State.issued (v : Word) (c : Command) (verdict : Option FaultCode) (s : State) : State :=
  verdict.elim { s with i2cm := { s.i2cm with pending := some c, busy := true } } fun code =>
    s.withFault code (s.params.i2cmBase + 0x0C#32) 4 .write (some v) (some s.i2cm.phase)

/-- The end of a CMD write is R117's verdict. -/
theorem conclude_legal (v : Word) (c : Command) (op : CmdOp) (s : State) :
    conclude { addr := s.params.i2cmBase + 0x0C#32, width := 4, dir := .write, value := some v } s
        ((legal s.i2cm.phase s.i2cm.nackf op).elim (.ok (accept c s)) .error) =
      s.issued v c (legal s.i2cm.phase s.i2cm.nackf op) := by
  cases hlegal : legal s.i2cm.phase s.i2cm.nackf op with
  | none => rfl
  | some code =>
    rw [Option.elim_some, conclude_error, State.raise_eq, legal_recordsPhase hlegal]
    rfl

/-- Settles O16: the write ends as `cmdIssue_eq` says, and the last check as `conclude_legal` says. -/
theorem commandIssue : Obligations.CommandIssue := by
  intro v s hf
  refine ⟨rfl, (hostAccess_i2cm (addr := s.params.i2cmBase + 0x0C#32) hf rfl rfl).trans ?_⟩
  simp only [cmdIssue_eq, apply_ite (conclude _ s), conclude_error, conclude_legal, opOfNat_command]
  unfold opOfNat
  cases legal s.i2cm.phase s.i2cm.nackf _ <;> rfl

/-- Settles O17: R117's function at each phase and NACKF. -/
theorem legalityTable : Obligations.LegalityTable := by
  intro phase nackf
  cases nackf <;> cases phase <;> rfl

/-- A command that I2CM is ready to take is answered by R117. -/
theorem commandWrite_issued {v : Word} {op : CmdOp} {b : Byte} {s : State} (hv : cmdWord op.code b = v)
    (h0 : op.hasOperand = false → b = 0#8) (hf : s.fault = none) (hclk : s.clk.i2c = true) (hen : s.i2cm.en = true)
    (hbusy : s.i2cm.busy = false) :
    commandWrite v s = .next (s.issued v (op.command b) (legal s.i2cm.phase s.i2cm.nackf op)) := by
  rw [← hv, commandWrite_ready hf hclk hen hbusy h0, ← conclude_legal]
  cases legal s.i2cm.phase s.i2cm.nackf op <;> rfl

/-- ENGINE's turn while the run goes on. -/
theorem step_engine {s : State} (hf : s.fault = none) (hturn : s.choice.turn = .engine) :
    step s = .next (engineStep s).refresh := by
  simp only [step, agentStep, whileRunning_running hf, hturn]

/-- R124: ENGINE's step when it is enabled. -/
theorem step_completion {c : Command} {s : State} (hf : s.fault = none) (hturn : s.choice.turn = .engine)
    (hrelease : s.choice.release = true) (hbusy : s.i2cm.busy = true) (hpending : s.i2cm.pending = some c) :
    step s = .next (State.refresh { s with i2cm := completion c s.choice.ack s.choice.byte s.i2cm }) := by
  have hstep : engineStep s = { s with i2cm := completion c s.choice.ack s.choice.byte s.i2cm } := by
    simp only [engineStep, hbusy, hrelease, hpending, Bool.and_self]
  rw [step_engine hf hturn, hstep]

/-- Settles O25: ENGINE's turn is a completion or nothing, by `engineStep_cases`. -/
theorem engineTurn : Obligations.EngineTurn := by
  intro s hturn
  refine ⟨fun c hf hbusy hrelease hpending => step_completion hf hturn hrelease hbusy hpending, ?frame, ?noFault⟩
  case frame =>
    intro t ht
    obtain ⟨hf, -⟩ := step_next ht
    rw [step_engine hf hturn] at ht
    cases ht
    obtain hsame | ⟨hbusy, hrelease, c, hpending, hstep⟩ := engineStep_cases s
    · rw [hsame]
      exact ⟨hf, rfl, fun hne => absurd rfl hne⟩
    · rw [hstep]
      exact ⟨hf, rfl, fun _ => ⟨hf, hbusy, hrelease, by simp [hpending]⟩⟩
  case noFault =>
    intro hf r hfault
    rw [step_engine hf hturn] at hfault
    cases hfault

/-- R117's column of START. -/
theorem legal_start (phase : Phase) (nackf : Bool) :
    legal phase nackf .start =
      if nackf = true ∧ (phase = .addrW ∨ phase = .addrR ∨ phase = .dataW) then some .cmdAfterSlaveNack
      else if phase = .idle ∨ phase = .stopped then none
      else some .sequence := by
  cases nackf <;> cases phase <;> rfl

/-- R117's column of ADDR. -/
theorem legal_addr (phase : Phase) (nackf : Bool) :
    legal phase nackf .addr =
      if phase = .started then none
      else some (if nackf = true ∧ (phase = .addrW ∨ phase = .addrR ∨ phase = .dataW) then .cmdAfterSlaveNack
        else .sequence) := by
  cases nackf <;> cases phase <;> rfl

/-- R117's column of WRITE. -/
theorem legal_write (phase : Phase) (nackf : Bool) :
    legal phase nackf .write =
      if nackf = true ∧ (phase = .addrW ∨ phase = .addrR ∨ phase = .dataW) then some .cmdAfterSlaveNack
      else if phase = .addrW ∨ phase = .dataW then none
      else some .sequence := by
  cases nackf <;> cases phase <;> rfl

/-- R117's columns of READ_ACK and READ_NACK. -/
theorem legal_read {op : CmdOp} (hop : op = .readAck ∨ op = .readNack) (phase : Phase) (nackf : Bool) :
    legal phase nackf op =
      if nackf = true ∧ (phase = .addrW ∨ phase = .addrR ∨ phase = .dataW) then some .cmdAfterSlaveNack
      else if phase = .addrR ∨ phase = .dataR then none
      else some (if phase = .dataRLast then .readAfterFinal else .sequence) := by
  obtain rfl | rfl := hop
  · cases nackf <;> cases phase <;> rfl
  · cases nackf <;> cases phase <;> rfl

/-- R117's column of STOP. -/
theorem legal_stop (phase : Phase) (nackf : Bool) :
    legal phase nackf .stop =
      if phase = .addrW ∨ phase = .dataW ∨ phase = .dataRLast ∨ (phase = .addrR ∧ nackf = true) then none
      else some (if phase = .dataR then .ackOnFinalByte else .sequence) := by
  cases nackf <;> cases phase <;> rfl

/-- A condition in R117's verdict is a condition on the state the write leads to. -/
theorem State.issued_ite (v : Word) (c : Command) (p : Prop) [Decidable p] (verdict verdict' : Option FaultCode)
    (s : State) :
    s.issued v c (if p then verdict else verdict') = if p then s.issued v c verdict else s.issued v c verdict' :=
  apply_ite (State.issued v c · s) p verdict verdict'

/-- R89's layout in arithmetic. -/
theorem cmdWord_eq (o : BitVec 3) (b : Byte) : cmdWord o b = BitVec.ofNat 32 (256 * b.toNat + o.toNat) := by
  revert o b
  decide

/-- R98: ADDR's BYTE in arithmetic. -/
theorem addrByte_eq (a7 : BitVec 7) (dir : Direction) :
    addrByte a7 dir = BitVec.ofNat 8 (2 * a7.toNat + (if dir = .read then 1 else 0)) := by
  revert a7
  cases dir <;> decide

/-- R119: ADDR's word in arithmetic. -/
theorem cmdWord_addr_eq (a7 : BitVec 7) (dir : Direction) :
    cmdWord CmdOp.addr.code (addrByte a7 dir) =
      BitVec.ofNat 32 (512 * a7.toNat + (if dir = .read then 256 else 0) + 2) := by
  revert a7
  cases dir <;> decide

theorem decode_cmdWord_addr (a7 : BitVec 7) (dir : Direction) :
    decode (.cmd (cmdWord CmdOp.addr.code (addrByte a7 dir))) = .ok (.i2cAddr a7 dir) := by
  revert a7
  cases dir <;> decide

theorem decode_cmdWord_write (b : Byte) : decode (.cmd (cmdWord CmdOp.write.code b)) = .ok (.i2cWrite b) := by
  revert b
  decide

/-- R32: only a NACK changes NACKF. -/
theorem nackfAfter_eq (a old : Bool) : nackfAfter a old = if a = false then true else old := by
  cases a <;> rfl

/-- R119: the byte's bit 0 is the transaction's direction. -/
theorem phase_of_addrByte (b : Byte) :
    (if b.getLsbD 0 then Phase.addrR else .addrW) = if b.toNat % 2 = 0 then .addrW else .addrR := by
  revert b
  decide

/-- Settles O18: R117 answers the issue by `legal_start`, and ENGINE's completion is `completeStart`. -/
theorem startCommand : Obligations.StartCommand := by
  refine ⟨rfl, fun s hf hclk hen hbusy => ?_, fun s => step_completion⟩
  refine (commandWrite_issued (op := .start) rfl (fun _ => rfl) hf hclk hen hbusy).trans ?_
  simp only [legal_start, State.issued_ite]
  rfl

/-- Settles O19: the word, the byte, NACKF and PHASE are put in the model's terms; then `legal_addr` and
`completeAddr`. -/
theorem addrCommand : Obligations.AddrCommand := by
  simp only [Obligations.AddrCommand, ← cmdWord_addr_eq, ← addrByte_eq, ← nackfAfter_eq, ← phase_of_addrByte]
  refine ⟨decode_cmdWord_addr, fun a7 dir s hf hclk hen hbusy => ?_, fun b s => step_completion⟩
  refine (commandWrite_issued (op := .addr) rfl nofun hf hclk hen hbusy).trans ?_
  simp only [legal_addr, State.issued_ite]
  rfl

/-- Settles O20: the word and NACKF are put in the model's terms; then `legal_write` and `completeWrite`. -/
theorem writeCommand : Obligations.WriteCommand := by
  have hword (d : Byte) : BitVec.ofNat 32 (256 * d.toNat + 3) = cmdWord CmdOp.write.code d := (cmdWord_eq 3#3 d).symm
  simp only [Obligations.WriteCommand, hword, ← nackfAfter_eq]
  refine ⟨decode_cmdWord_write, fun d s hf hclk hen hbusy => ?_, fun d s => step_completion⟩
  refine (commandWrite_issued (op := .write) rfl nofun hf hclk hen hbusy).trans ?_
  simp only [legal_write, State.issued_ite]
  rfl

/-- Settles O21: `legal_read`, and `completeReadAck`. -/
theorem readAckCommand : Obligations.ReadAckCommand := by
  refine ⟨rfl, fun s hf hclk hen hbusy => ?_, fun s => step_completion⟩
  refine (commandWrite_issued (op := .readAck) rfl (fun _ => rfl) hf hclk hen hbusy).trans ?_
  simp only [legal_read (.inl rfl), State.issued_ite]
  rfl

/-- Settles O22: `legal_read`, and `completeReadNack`, which keeps NACKF. -/
theorem readNackCommand : Obligations.ReadNackCommand := by
  refine ⟨rfl, fun s hf hclk hen hbusy => ?_, fun s => step_completion⟩
  refine (commandWrite_issued (op := .readNack) rfl (fun _ => rfl) hf hclk hen hbusy).trans ?_
  simp only [legal_read (.inr rfl), State.issued_ite]
  rfl

/-- Settles O23: `legal_stop`, and `completeStop`, which keeps ACK and NACKF. -/
theorem stopCommand : Obligations.StopCommand := by
  refine ⟨rfl, fun s hf hclk hen hbusy => ?_, fun s => step_completion⟩
  refine (commandWrite_issued (op := .stop) rfl (fun _ => rfl) hf hclk hen hbusy).trans ?_
  simp only [legal_stop, State.issued_ite]
  rfl

end Sys2Proof.Machine
end

section
/-! SUPPORT. Proofs of family 43_uart_tx: UTX's reads (R129, R131, R134, R137), its writes (R130, R132, R135, R136), and
TX's turn (R138, R139). -/

namespace Sys2Proof.Machine

/-- R105, R164: an access to a UTX register raises F01 at the register's address, or ends as its pseudocode does. -/
theorem hostAccess_utx {r : RegName} {d : Direction} {v : Option Word} {body : Except FaultCode State} {s : State}
    {addr : Word} (hf : s.fault = none) (hu : r.unit = .utx)
    (haddr : s.params.utxBase + r.off.setWidth 32 = addr) :
    hostAccess r d v body s = .next (
      if s.clk.utx = false then s.withFault .clockGated addr 4 d v none
      else conclude { addr := addr, width := 4, dir := d, value := v } s body) := by
  have hinfo : accessInfo r d v s = { addr := addr, width := 4, dir := d, value := v } := by
    rw [accessInfo, hu, ← haddr]
    rfl
  have hgated : s.gated r.unit = true ↔ s.clk.utx = false := by simp [hu, State.gated]
  rw [hostAccess, whileRunning_running hf, hinfo]
  simp only [hgated]
  rfl

/-- R84: CTRL stands at the window's base. -/
theorem utxBase_add_ctrlOff (p : Params) : p.utxBase + RegName.utxCtrl.off.setWidth 32 = p.utxBase :=
  BitVec.add_zero p.utxBase

/-- R96's layout in arithmetic. -/
theorem utxStatusWord_eq (u : UtxState) :
    utxStatusWord u = BitVec.ofNat 32 ((if u.tc then 2 else 0) + (if u.tdr = none then 1 else 0)) := by
  simp only [utxStatusWord, txe, ← Option.isNone_iff_eq_none]
  cases u.tc <;> cases u.tdr.isNone <;> rfl

/-- R44 item 2: TC is 0 exactly while a byte is held in TDR or SHIFT. -/
theorem State.tc_eq_false_iff {s : State} (htc : s.tcIffEmpty) :
    s.utx.tc = false ↔ s.utx.tdr ≠ none ∨ s.utx.shift ≠ none := by
  rw [← Bool.not_eq_true]
  exact (not_congr htc).trans not_and_or

/-- Settles O26: each read returns its word, written in arithmetic; STATUS is never 2 by R44 item 2. -/
theorem utxReads : Obligations.UtxReads := by
  refine ⟨rfl, rfl, rfl, rfl, fun s hf => ⟨?ctrl, ?baud, ?frame, ?status, ?never2⟩⟩
  case ctrl =>
    rw [← enableWord_eq]
    exact hostAccess_utx hf rfl (utxBase_add_ctrlOff s.params)
  case baud =>
    rw [BitVec.ofNat_toNat]
    exact hostAccess_utx hf rfl rfl
  case frame =>
    rw [BitVec.ofNat_toNat]
    exact hostAccess_utx hf rfl rfl
  case status =>
    rw [← utxStatusWord_eq]
    exact hostAccess_utx hf rfl rfl
  case never2 =>
    rintro ⟨⟨-, htc, -⟩, -, hframe⟩
    exact ⟨hframe, fun ⟨hset, htdr⟩ => htdr (htc.mp hset).1⟩

/-- R130's pseudocode in arithmetic. -/
theorem utxCtrlWrite_eq (v : Word) (s : State) :
    utxCtrlWrite v s =
      if 2 ≤ v.toNat then .error .reservedBits
      else if s.utx.en = false ∧ v = 1#32 then
        if s.utx.baud = 0#16 then .error .unsupportedConfig
        else if s.params.pinsRoutedUtx = false then .error .pinsNotRouted
        else .ok { s with utx := { s.utx with en := true } }
      else if s.utx.en = true ∧ v = 0#32 then
        if s.utx.tdr ≠ none ∨ s.utx.shift ≠ none then .error .disableWhileActive
        else .ok { s with utx := { s.utx with en := false } }
      else .ok s := by
  simp only [utxCtrlWrite, ctrlReserved_iff, Bool.or_eq_true, Option.isSome_iff_ne_none]
  by_cases hv : 2 ≤ v.toNat
  · simp only [hv, if_true]
  · simp only [hv, if_false]
    obtain rfl | rfl := word_eq_zero_or_one (Nat.lt_of_not_le hv)
    · cases s.utx.en <;> simp
    · cases s.utx.en <;> simp

/-- Settles O27: the write ends as `utxCtrlWrite_eq` says, and R44 items 5 and 2 say what TXE and TC then are.
Unqualified, `utxCtrlWrite` names R130's pseudocode. -/
theorem UartTx.utxCtrlWrite : Obligations.UtxCtrlWrite := by
  intro v s hf
  refine ⟨rfl, (hostAccess_utx (r := .utxCtrl) hf rfl (utxBase_add_ctrlOff s.params)).trans ?result, ?flags⟩
  case result =>
    simp only [utxCtrlWrite_eq, apply_ite (conclude _ s), conclude_ok]
    rfl
  case flags =>
    rintro ⟨⟨-, htc, -, -, hcomplete, -⟩, -, hframe⟩
    exact ⟨fun hen => ⟨(htc.mp (hcomplete hen)).1, hcomplete hen⟩, State.tc_eq_false_iff htc, hframe⟩

/-- R94: FRAME's reserved bits are [31:8]. -/
theorem frameReserved_iff (v : Word) : frameReserved v = true ↔ 256 ≤ v.toNat :=
  upperBits_ne_zero_iff v rfl

/-- The field [7:0] in arithmetic: what stands above it is discarded. -/
theorem lowByte_eq (v : Word) : lowByte v = BitVec.ofNat 8 (v.toNat % 256) :=
  BitVec.eq_of_toNat_eq (by simp [lowByte])

/-- R135's pseudocode in arithmetic: of the values without reserved bits, only 8 is legal. -/
theorem utxFrameWrite_eq (v : Word) (s : State) :
    utxFrameWrite v s =
      if 256 ≤ v.toNat then .error .reservedBits
      else if s.utx.en = true then .error .configWhileEnabled
      else if v.toNat ≠ 8 then .error .unsupportedConfig
      else .ok { s with utx := { s.utx with frame := 8#8 } } := by
  simp only [utxFrameWrite, frameReserved_iff]
  by_cases hv : 256 ≤ v.toNat
  · simp only [hv, if_true]
  · have hbyte : lowByte v = 0x08#8 ↔ v.toNat = 8 := by
      rw [lowByte_eq, Nat.mod_eq_of_lt (Nat.lt_of_not_le hv), ← BitVec.toNat_inj, BitVec.toNat_ofNat,
        Nat.mod_eq_of_lt (Nat.lt_of_not_le hv)]
      rfl
    simp only [hv, if_false, ne_eq, hbyte]

/-- Settles O28: the reserved bits and the fields of both registers in arithmetic. -/
theorem utxConfigWrites : Obligations.UtxConfigWrites := by
  intro v s hf
  refine ⟨rfl, rfl, ?baud, ?frame⟩
  case baud =>
    refine (hostAccess_utx (r := .utxBaud) hf rfl rfl).trans ?_
    simp only [utxBaudWrite, upperReserved_iff, apply_ite (conclude _ s), conclude_ok]
    rfl
  case frame =>
    refine (hostAccess_utx (r := .utxFrame) hf rfl rfl).trans ?_
    simp only [utxFrameWrite_eq, apply_ite (conclude _ s), conclude_ok]
    rfl

/-- R136's pseudocode in arithmetic. -/
theorem utxDataWrite_eq (v : Word) (s : State) :
    utxDataWrite v s =
      if 65536 ≤ v.toNat then .error .reservedBits
      else if s.utx.en = false then .error .notEnabled
      else if s.utx.tdr ≠ none then .error .tdrOverwrite
      else .ok { s with utx := { s.utx with tdr := some (BitVec.ofNat 8 (v.toNat % 256)), tc := false } } := by
  simp only [utxDataWrite, upperReserved_iff, Option.isSome_iff_ne_none, lowByte_eq]

/-- Settles O29: the write ends as `utxDataWrite_eq` says. Unqualified, `utxDataWrite` names R136's pseudocode. -/
theorem UartTx.utxDataWrite : Obligations.UtxDataWrite := by
  intro v s hf
  refine ⟨rfl, (hostAccess_utx (r := .utxData) hf rfl rfl).trans ?_⟩
  simp only [utxDataWrite_eq, apply_ite (conclude _ s), conclude_ok]
  rfl

/-- TX's turn while the run goes on. -/
theorem step_tx {s : State} (hf : s.fault = none) (hturn : s.choice.turn = .tx) :
    step s = .next (txStep s).refresh := by
  simp only [step, agentStep, whileRunning_running hf, hturn]

/-- R138: the load step, when it is enabled. -/
theorem txUnitStep_load {u : UtxState} {x : Byte} (hen : u.en = true) (htdr : u.tdr = some x)
    (hshift : u.shift = none) : txUnitStep u = { u with shift := some x, tdr := none } := by
  simp only [txUnitStep, hshift, htdr, hen, if_true, txLoad]

/-- R139: the shift-out step, when it is enabled; it does not ask whether UTX is. -/
theorem txUnitStep_shiftOut {u : UtxState} {x : Byte} (hshift : u.shift = some x) :
    txUnitStep u =
      { u with lineTrace := u.lineTrace ++ [x], shift := none, tc := if u.tdr = none then true else u.tc } := by
  simp only [txUnitStep, hshift, txShiftOut, tcAfterShiftOut, Option.isNone_iff_eq_none, UtxState.emit]

/-- Settles O30: the two steps by `txUnitStep_load` and `txUnitStep_shiftOut`; that there is no other change by
`txUnitStep_cases`. -/
theorem transmitterSteps : Obligations.TransmitterSteps := by
  intro s hturn
  refine ⟨?load, ?shiftOut, ?frame⟩
  case load =>
    intro x hf hen htdr hshift
    rw [step_tx hf hturn, txStep, txUnitStep_load hen htdr hshift]
  case shiftOut =>
    intro x hf hshift
    rw [step_tx hf hturn, txStep, txUnitStep_shiftOut hshift]
  case frame =>
    intro t ht
    obtain ⟨hf, -⟩ := step_next ht
    rw [step_tx hf hturn] at ht
    cases ht
    refine ⟨rfl, fun hne => ⟨hf, ?_⟩⟩
    obtain ⟨hsame, -⟩ | ⟨x, hen, htdr, hshift, -⟩ | ⟨x, hshift, -⟩ := txUnitStep_cases s.utx
    · exact absurd hsame hne
    · exact .inl ⟨hen, by simp [htdr], hshift⟩
    · exact .inr (by simp [hshift])

end Sys2Proof.Machine
end

section
/-! SUPPORT. Proofs of family 60_exceptions: a fault stops the run for good (R163) and has no other effect on the block
(R167). -/

namespace Sys2Proof.Machine

/-- R163: a step that answers a next state starts with FAULT clear, so a stopped run has no such step. -/
theorem step_ne_next_of_fault {s : State} {f : FaultRecord} (hf : s.fault = some f) (t : State) : step s ≠ .next t := by
  intro h
  obtain ⟨hclear, -⟩ := step_next h
  simp [hf] at hclear

/-- R163: nor does an instruction answer a next state in a stopped run. -/
theorem exec_ne_next_of_fault {s : State} {f : FaultRecord} (hf : s.fault = some f) (i : Instr) (t : State) :
    exec i s ≠ .next t := by
  intro h
  obtain ⟨hclear, -⟩ := exec_next h
  simp [hf] at hclear

/-- Settles O47: what steps, what answers and what has ended each have FAULT clear. -/
theorem faultIsSticky : Obligations.FaultIsSticky := by
  refine ⟨fun s f hf => ⟨step_ne_next_of_fault hf, exec_ne_next_of_fault hf, ?notAtEnd⟩, State.resetWith_fault⟩
  case notAtEnd =>
    rintro ⟨hclear, -⟩
    simp [hf] at hclear

/-- An instruction's own effect never touches FAULT: only a raise does (R17). -/
theorem Effect.fault_eq {i : Instr} {s t : State} (h : Effect i s t) : t.fault = s.fault := by
  cases i with
  | ldClkClken | ldI2cmCtrl | ldI2cmClkdiv | ldI2cmOwnaddr | ldI2cmStatus | ldUtxCtrl | ldUtxBaud | ldUtxFrame
  | ldUtxStatus =>
    cases h
    rfl
  | ldI2cmRxdata =>
    obtain ⟨b, -, rfl⟩ := h
    rfl
  | stClkClken v =>
    obtain ⟨rfl, -⟩ := h
    rfl
  | stI2cmClkdiv v | stI2cmOwnaddr v | stUtxBaud v | stUtxFrame v =>
    obtain ⟨-, rfl⟩ := h
    rfl
  | stUtxData v =>
    obtain ⟨-, -, rfl⟩ := h
    rfl
  | stI2cmCtrl v | stUtxCtrl v =>
    obtain rfl | ⟨-, -, -, rfl⟩ | ⟨-, -, -, rfl⟩ := h <;> rfl
  | stI2cmCmd | i2cStart | i2cAddr | i2cWrite | i2cReadAck | i2cReadNack | i2cStop | reservedOp0 | reservedOp7 =>
    obtain ⟨-, -, c, -, rfl⟩ := h
    rfl

/-- An instruction by itself is an access. -/
theorem accessResult_of_exec {i : Instr} {s t : State} (h : exec i s = .next t) : AccessResult s t := by
  obtain ⟨hf, hres⟩ := exec_next h
  exact ⟨hf, hres.imp_right fun he => ⟨i, h, he⟩⟩

/-- R167: an access that ends with FAULT set has raised a fault and done nothing else. -/
theorem AccessResult.raised {s u : State} (h : AccessResult s u) (hu : u.fault ≠ none) :
    ∃ c info, u = s.raise c info := by
  obtain ⟨hf, hraise | ⟨i, -, heffect⟩⟩ := h
  · exact hraise
  · exact absurd (heffect.fault_eq.trans hf) hu

/-- A raised fault is the record it leaves, and nothing else (R17, R167). -/
theorem State.raise_eq_of_fault {c : FaultCode} {info : AccessInfo} {s : State} {f : FaultRecord}
    (h : (s.raise c info).fault = some f) : s.raise c info = { s with fault := some f } := by
  rw [← h]
  rfl

/-- ENGINE's turn never faults. -/
theorem engineStep_fault (s : State) : (engineStep s).fault = s.fault := by
  obtain hsame | ⟨-, -, c, -, hstep⟩ := engineStep_cases s
  · rw [hsame]
  · rw [hstep]

/-- The host's own part of an operation never faults. -/
theorem OwnPart.fault_eq {u t : State} (h : OwnPart u t) : t.fault = u.fault := by
  obtain ⟨regs, pc, rfl⟩ := h
  rfl

/-- R165, R167: a step that ends with FAULT set is HOST's, at an access that raised a fault and did nothing else. -/
theorem step_raised {s t : State} (h : step s = .next t) (ht : t.fault ≠ none) :
    s.fault = none ∧ s.choice.turn = .host ∧
      (∃ op, s.host.program[s.host.pc]? = some op ∧ op.isAccess = true) ∧
      ∃ c info, t = (s.raise c info).refresh := by
  obtain ⟨hf, ⟨hturn, hhost⟩ | ⟨-, rfl⟩ | ⟨-, rfl⟩⟩ := step_next h
  · refine ⟨hf, hturn, ?_⟩
    obtain ⟨-, rfl⟩ | ⟨op, hop, ⟨haccess, u, hu, ⟨hfault, rfl⟩ | ⟨hclear, hown⟩⟩ | ⟨-, hown⟩⟩ := hostStep_next hhost
    · exact absurd hf ht
    · obtain ⟨c, info, rfl⟩ := hu.raised hfault
      exact ⟨⟨op, hop, haccess⟩, c, info, rfl⟩
    · exact absurd (hown.fault_eq.trans hclear) ht
    · exact absurd (hown.fault_eq.trans hf) ht
  · exact absurd ((engineStep_fault s).trans hf) ht
  · exact absurd hf ht

/-- Settles O48: a fault is a raise, by `AccessResult.raised` and `step_raised`, and it stops the run (R163). -/
theorem faultHasNoOtherEffect : Obligations.FaultHasNoOtherEffect := by
  refine ⟨?instr, ?step⟩
  case instr =>
    intro i s t f h hfault
    obtain ⟨hf, -⟩ := exec_next h
    obtain ⟨c, info, rfl⟩ := (accessResult_of_exec h).raised (by simp [hfault])
    exact ⟨hf, State.raise_eq_of_fault hfault⟩
  case step =>
    intro s t f h hfault
    obtain ⟨hf, -, -, c, info, rfl⟩ := step_raised h (by simp [hfault])
    exact ⟨hf, rfl, rfl, rfl, rfl, step_ne_next_of_fault hfault⟩

end Sys2Proof.Machine
end

section
/-! SUPPORT. Proofs of the encoding statements (30_encoding sections 1, 3 and 4): the encoder and the decoder are
inverse to each other (R81, R89, R97, R98), and an I2CM command is the write of its CMD word (R80). -/

namespace Sys2Proof.Machine

/-- R119's encoding is the command word of OP ADDR. -/
theorem encode_i2cAddr (a7 : BitVec 7) (dir : Direction) :
    encode (.i2cAddr a7 dir) = .cmd (cmdWord CmdOp.addr.code (addrByte a7 dir)) := by
  revert a7
  cases dir <;> decide

/-- R120's encoding is the command word of OP WRITE. -/
theorem encode_i2cWrite (b : Byte) : encode (.i2cWrite b) = .cmd (cmdWord CmdOp.write.code b) := by
  revert b
  decide

/-- Settles O1: a word with an operand byte is a `cmdWord`; a reserved one falls apart into OP and the rest. -/
theorem decodeOfEncodeIsIdentity : Obligations.DecodeOfEncodeIsIdentity := by
  intro i
  cases i with
  | i2cAddr a7 dir => rw [encode_i2cAddr, decode_cmdWord_addr]
  | i2cWrite b => rw [encode_i2cWrite, decode_cmdWord_write]
  | reservedOp0 rest =>
    simp only [encode, decode, decodeCmd, BitVec.extractLsb'_append_eq_right, BitVec.extractLsb'_append_eq_left,
      if_true]
  | reservedOp7 rest =>
    simp only [encode, decode, decodeCmd, BitVec.extractLsb'_append_eq_right, BitVec.extractLsb'_append_eq_left]
    rfl
  | _ => rfl

/-- R82 to R84: only a register's own window and offset hold it. -/
theorem regAt_eq_some {u : BlockUnit} {off : Byte} {r : RegName} (h : regAt u off = some r) :
    r.unit = u ∧ r.off = off := by
  unfold regAt at h
  split at h
  all_goals
    split_ifs at h
    all_goals
      cases h
      subst_vars
      exact ⟨rfl, rfl⟩

/-- R81's layout in arithmetic. -/
theorem accDesc_toNat (u : BlockUnit) (d : Direction) (off : Byte) :
    (accDesc u d off).toNat = 16384 * u.code.toNat + 8192 * d.wBit.toNat + off.toNat := by
  revert off
  cases u <;> cases d <;> decide

/-- R81: a UNIT field that names a unit is the unit's code. -/
theorem unitOfCode_eq_some {c : BitVec 2} {u : BlockUnit} (h : unitOfCode c = some u) : c = u.code := by
  unfold unitOfCode at h
  split_ifs at h <;> cases h <;> assumption

/-- R81: the W field in arithmetic. -/
theorem wBit_accDirection (desc : BitVec 16) : (accDirection desc).wBit.toNat = desc.toNat / 8192 % 2 := by
  have hw : desc.getLsbD 13 = desc.toNat.testBit 13 := rfl
  rw [← Nat.toNat_testBit desc.toNat 13, ← hw, accDirection]
  cases desc.getLsbD 13 <;> rfl

/-- R81: a descriptor without a nonzero bit in [12:8] is put together from its fields. -/
theorem accDesc_of_fields {desc : BitVec 16} {u : BlockUnit} (hzero : desc.extractLsb' 8 5 = 0#5)
    (hunit : unitOfCode (desc.extractLsb' 14 2) = some u) :
    accDesc u (accDirection desc) (desc.extractLsb' 0 8) = desc := by
  apply BitVec.eq_of_toNat_eq
  simp only [← BitVec.toNat_inj, BitVec.extractLsb'_toNat, Nat.shiftRight_eq_div_pow, BitVec.toNat_ofNat] at hzero
  simp only [accDesc_toNat, ← unitOfCode_eq_some hunit, wBit_accDirection, BitVec.extractLsb'_toNat,
    Nat.shiftRight_eq_div_pow]
  omega

/-- The encoding of a register access is the descriptor it stands for; a read carries no data. -/
theorem encode_accInstr {r : RegName} {d : Direction} {v : Word} {i : Instr} (h : accInstr r d v = .ok i) :
    encode i = .acc (accDesc r.unit d r.off) (if d = .write then v else 0#32) := by
  cases r <;> cases d <;> cases h <;> rfl

/-- What a descriptor has to be to decode: the descriptor of a register in a direction it allows (R81, R82 to R84). -/
theorem decode_acc_ok {desc : BitVec 16} {v : Word} {i : Instr} (h : decode (.acc desc v) = .ok i) :
    ∃ r, desc = accDesc r.unit (accDirection desc) r.off ∧ accInstr r (accDirection desc) v = .ok i := by
  simp only [decode, decodeAcc] at h
  split_ifs at h with hzero
  split at h
  · cases h
  · rename_i u hunit
    split at h
    · cases h
    · rename_i r hreg
      obtain ⟨rfl, hoff⟩ := regAt_eq_some hreg
      exact ⟨r, by rw [hoff, accDesc_of_fields (not_not.mp hzero) hunit], h⟩

/-- R89: a word without reserved bits is put together from OP and BYTE. -/
theorem cmdWord_of_fields {w : Word} (h : cmdReserved w = false) : cmdWord (cmdOp w) (cmdByte w) = w := by
  have hw := w.isLt
  simp only [cmdReserved, Bool.or_eq_false_iff, bne_eq_false_iff_eq, ← BitVec.toNat_inj,
    BitVec.extractLsb'_toNat, Nat.shiftRight_eq_div_pow, BitVec.toNat_ofNat] at h
  apply BitVec.eq_of_toNat_eq
  rw [cmdWord_eq, cmdOp_toNat]
  simp only [cmdByte, BitVec.toNat_ofNat, BitVec.extractLsb'_toNat, Nat.shiftRight_eq_div_pow]
  omega

/-- R98: the address byte of its two fields. -/
theorem addrByte_of_fields (b : Byte) :
    addrByte (b.extractLsb' 1 7) (if b.getLsbD 0 then .read else .write) = b := by
  revert b
  decide

/-- R98: the same, of the fields as they stand in a command word. -/
theorem addrByte_of_word (w : Word) :
    addrByte (w.extractLsb' 9 7) (if w.getLsbD 8 then .read else .write) = cmdByte w := by
  have ha : w.extractLsb' 9 7 = (cmdByte w).extractLsb' 1 7 := by
    apply BitVec.eq_of_toNat_eq
    simp only [cmdByte, BitVec.extractLsb'_toNat, Nat.shiftRight_eq_div_pow]
    omega
  have hd : w.getLsbD 8 = (cmdByte w).getLsbD 0 := by simp [cmdByte]
  rw [ha, hd, addrByte_of_fields]

/-- R97: a reserved command word is put together from its OP and the rest. -/
theorem reserved_of_fields {w : Word} {op : BitVec 3} (h : w.extractLsb' 0 3 = op) :
    w.extractLsb' 3 29 ++ op = w := by
  have hjoin := BitVec.extractLsb'_append_extractLsb'_eq_extractLsb' (x := w) (start₁ := 0) (len₁ := 3) (len₂ := 29) rfl
  rw [← h, hjoin, BitVec.extractLsb'_eq_self]

/-- R98, R99: an OP without an operand decodes with BYTE zero alone. -/
theorem plainCommand_ok {b : Byte} {i j : Instr} (h : plainCommand b j = .ok i) : b = 0#8 ∧ j = i := by
  unfold plainCommand at h
  split_ifs at h with hb
  cases h
  exact ⟨hb, rfl⟩

/-- R97: the code that is none of the others is STOP's. -/
theorem op_eq_stop {op : BitVec 3} (h0 : op ≠ 0b000#3) (h1 : op ≠ 0b001#3) (h2 : op ≠ 0b010#3) (h3 : op ≠ 0b011#3)
    (h4 : op ≠ 0b100#3) (h5 : op ≠ 0b101#3) (h7 : op ≠ 0b111#3) : op = 0b110#3 := by
  bv_omega

/-- R89, R97, R98: a command word that decodes is the encoding of what it decodes to. -/
theorem encode_of_decode_cmd {w : Word} {i : Instr} (h : decode (.cmd w) = .ok i) : encode i = .cmd w := by
  have plain {op : BitVec 3} {j : Instr} (hres : cmdReserved w = false) (hop : w.extractLsb' 0 3 = op)
      (hj : encode j = .cmd (cmdWord op 0#8)) (h : plainCommand (w.extractLsb' 8 8) j = .ok i) :
      encode i = .cmd w := by
    obtain ⟨hbyte, rfl⟩ := plainCommand_ok h
    rw [hj, ← hbyte, ← hop]
    exact congrArg Encoded.cmd (cmdWord_of_fields hres)
  have operand {op : BitVec 3} {b : Byte} (hres : cmdReserved w = false) (hop : w.extractLsb' 0 3 = op)
      (hb : b = cmdByte w) : Encoded.cmd (cmdWord op b) = .cmd w := by
    rw [hb, ← hop]
    exact congrArg Encoded.cmd (cmdWord_of_fields hres)
  have haddr := addrByte_of_word w
  simp only [decode, decodeCmd] at h
  generalize (if w.getLsbD 8 then Direction.read else .write) = dir at h haddr
  split_ifs at h with h0 h7 hreserved h1 h2 h3 h4 h5
  · cases h
    exact congrArg Encoded.cmd (reserved_of_fields h0)
  · cases h
    exact congrArg Encoded.cmd (reserved_of_fields h7)
  all_goals have hres : cmdReserved w = false := by simpa [cmdReserved] using hreserved
  · exact plain hres h1 rfl h
  · cases h
    rw [encode_i2cAddr]
    exact operand hres h2 haddr
  · cases h
    rw [encode_i2cWrite]
    exact operand hres h3 rfl
  · exact plain hres h4 rfl h
  · exact plain hres h5 rfl h
  · exact plain hres (op_eq_stop h0 h1 h2 h3 h4 h5 h7) rfl h

/-- Settles O2: a descriptor that decodes is the one of its register and direction (`decode_acc_ok`), a command word is
put together from its fields. -/
theorem decodedBitsAreTheEncoding : Obligations.DecodedBitsAreTheEncoding := by
  refine ⟨?acc, fun w i => encode_of_decode_cmd⟩
  case acc =>
    intro desc v i h
    obtain ⟨r, hdesc, hinstr⟩ := decode_acc_ok h
    refine ⟨_, (encode_accInstr hinstr).trans (by rw [← hdesc]), fun hwrite => ?_⟩
    simp [accDirection, hwrite]

/-- R80, R101: what the encoding of an instruction is a command word of, is run as the write of that word. -/
theorem exec_eq_commandWrite {i : Instr} {w : Word} (h : encode i = .cmd w) (s : State) :
    exec i s = commandWrite w s := by
  cases i with
  | i2cAddr a7 dir =>
    rw [encode_i2cAddr] at h
    cases h
    rfl
  | i2cWrite b =>
    rw [encode_i2cWrite] at h
    cases h
    rfl
  | i2cStart | i2cReadAck | i2cReadNack | i2cStop | reservedOp0 | reservedOp7 =>
    cases h
    rfl
  | _ => cases h

/-- Settles O4: the word is the encoding of what it decodes to, and that is the word the instruction writes. -/
theorem commandIsWriteOfItsWord : Obligations.CommandIsWriteOfItsWord :=
  fun _ _ s h => exec_eq_commandWrite (encode_of_decode_cmd h) s

/-- Settles O3: the decoder evaluates the nine words. -/
theorem tableWordsDecode : Obligations.TableWordsDecode :=
  ⟨rfl, rfl, rfl, rfl, rfl, rfl, rfl, rfl, rfl⟩

end Sys2Proof.Machine
end

section
/-! SUPPORT. What a step can do to each unit, said once per unit, and the invariants of R44 that follow (10_state
section 5): they hold after reset, every step keeps them, so every reachable state meets them. -/

namespace Sys2Proof.Machine

/-- What an instruction can do to I2CM and its clock bit (R104, R107, R109, R112, R116): from a clock bit and a unit to
a clock bit and a unit. -/
inductive I2cmWrite (k : Bool) (m : I2cmState) : Bool → I2cmState → Prop where
  | same : I2cmWrite k m k m
  | clock (k' : Bool) : (k' = false → m.en = false) → I2cmWrite k m k' m
  | enable : k = true → m.en = false →
      I2cmWrite k m k { m with en := true, phase := .idle, ack := false, nackf := false }
  | disable : m.busy = false → m.phase.atRest = true → I2cmWrite k m k { m with en := false }
  | configure (d : BitVec 16) (a : BitVec 7) : I2cmWrite k m k { m with clkdiv := d, ownaddr := a }
  | accept (c : Command) : m.en = true → m.busy = false → legal m.phase m.nackf c.op = none →
      I2cmWrite k m k { m with pending := some c, busy := true }

/-- What an instruction can do to UTX and its clock bit (R104, R130, R132, R135, R136), with the bytes it gives UTX. -/
inductive UtxWrite (k : Bool) (u : UtxState) : List Byte → Bool → UtxState → Prop where
  | same : UtxWrite k u [] k u
  | clock (k' : Bool) : (k' = false → u.en = false) → UtxWrite k u [] k' u
  | enable : k = true → UtxWrite k u [] k { u with en := true }
  | disable : u.tdr = none → u.shift = none → UtxWrite k u [] k { u with en := false }
  | baud (d : BitVec 16) : UtxWrite k u [] k { u with baud := d }
  | frame : UtxWrite k u [] k { u with frame := 0x08#8 }
  | data (b : Byte) : u.en = true → u.tdr = none → UtxWrite k u [b] k { u with tdr := some b, tc := false }

theorem lowByte_eq_setWidth (v : Word) : lowByte v = v.setWidth 8 :=
  BitVec.eq_of_toNat_eq (by simp [lowByte])

/-- An instruction's effect on the two units. -/
theorem Effect.unitWrites {i : Instr} {s t : State} (h : Effect i s t) :
    I2cmWrite s.clk.i2c s.i2cm t.clk.i2c t.i2cm ∧ UtxWrite s.clk.utx s.utx (instrDataBytes i) t.clk.utx t.utx := by
  cases i with
  | ldClkClken | ldI2cmCtrl | ldI2cmClkdiv | ldI2cmOwnaddr | ldI2cmStatus | ldUtxCtrl | ldUtxBaud | ldUtxFrame
  | ldUtxStatus =>
    cases h
    exact ⟨.same, .same⟩
  | ldI2cmRxdata =>
    obtain ⟨b, -, rfl⟩ := h
    exact ⟨.same, .same⟩
  | stClkClken v =>
    obtain ⟨rfl, hi2c, hutx⟩ := h
    exact ⟨.clock _ hi2c, .clock _ hutx⟩
  | stI2cmCtrl v =>
    obtain rfl | ⟨hclk, hen, -, rfl⟩ | ⟨-, hbusy, hrest, rfl⟩ := h
    · exact ⟨.same, .same⟩
    · exact ⟨.enable hclk hen, .same⟩
    · exact ⟨.disable hbusy hrest, .same⟩
  | stI2cmClkdiv v =>
    obtain ⟨-, rfl⟩ := h
    exact ⟨.configure (divField v) s.i2cm.ownaddr, .same⟩
  | stI2cmOwnaddr v =>
    obtain ⟨-, rfl⟩ := h
    exact ⟨.configure s.i2cm.clkdiv (ownaddrField v), .same⟩
  | stUtxCtrl v =>
    obtain rfl | ⟨hclk, -, -, rfl⟩ | ⟨-, htdr, hshift, rfl⟩ := h
    · exact ⟨.same, .same⟩
    · exact ⟨.same, .enable hclk⟩
    · exact ⟨.same, .disable htdr hshift⟩
  | stUtxBaud v =>
    obtain ⟨-, rfl⟩ := h
    exact ⟨.same, .baud (divField v)⟩
  | stUtxFrame v =>
    obtain ⟨-, rfl⟩ := h
    exact ⟨.same, .frame⟩
  | stUtxData v =>
    obtain ⟨hen, htdr, rfl⟩ := h
    rw [lowByte_eq_setWidth]
    exact ⟨.same, .data _ hen htdr⟩
  | stI2cmCmd | i2cStart | i2cAddr | i2cWrite | i2cReadAck | i2cReadNack | i2cStop | reservedOp0 | reservedOp7 =>
    obtain ⟨hen, hbusy, c, hlegal, rfl⟩ := h
    exact ⟨.accept c hen hbusy hlegal, .same⟩

/-- An access is a fault or an instruction, so it does to the units what an instruction can do. -/
theorem AccessResult.unitWrites {s u : State} (h : AccessResult s u) :
    I2cmWrite s.clk.i2c s.i2cm u.clk.i2c u.i2cm ∧ ∃ bytes, UtxWrite s.clk.utx s.utx bytes u.clk.utx u.utx := by
  obtain ⟨-, ⟨c, info, rfl⟩ | ⟨i, -, heffect⟩⟩ := h
  · exact ⟨.same, _, .same⟩
  · exact heffect.unitWrites.imp_right fun hutx => ⟨_, hutx⟩

/-- HOST's turn ends with the host's own part, behind an access or behind nothing. -/
theorem hostStep_ownPart {s t : State} (h : hostStep s = .next t) : ∃ u, (u = s ∨ AccessResult s u) ∧ OwnPart u t := by
  obtain ⟨-, rfl⟩ | ⟨op, -, ⟨-, u, hu, ⟨-, rfl⟩ | ⟨-, hown⟩⟩ | ⟨-, hown⟩⟩ := hostStep_next h
  · exact ⟨s, .inl rfl, _, _, rfl⟩
  · exact ⟨u, .inr hu, _, _, rfl⟩
  · exact ⟨u, .inr hu, hown⟩
  · exact ⟨s, .inl rfl, hown⟩

/-- HOST's turn does to the units what an instruction can do. -/
theorem hostStep_unitWrites {s t : State} (h : hostStep s = .next t) :
    I2cmWrite s.clk.i2c s.i2cm t.clk.i2c t.i2cm ∧ ∃ bytes, UtxWrite s.clk.utx s.utx bytes t.clk.utx t.utx := by
  obtain ⟨u, rfl | hu, regs, pc, rfl⟩ := hostStep_ownPart h
  · exact ⟨.same, _, .same⟩
  · exact hu.unitWrites

/-- A step does nothing else to I2CM than an instruction can do, but for the completion of the pending command. -/
theorem step_i2cm {s t : State} (h : step s = .next t) :
    I2cmWrite s.clk.i2c s.i2cm t.clk.i2c t.i2cm ∨
      (s.i2cm.busy = true ∧ t.clk = s.clk ∧
        ∃ c, s.i2cm.pending = some c ∧ t.i2cm = completion c s.choice.ack s.choice.byte s.i2cm) := by
  obtain ⟨-, ⟨-, hhost⟩ | ⟨-, rfl⟩ | ⟨-, rfl⟩⟩ := step_next h
  · exact .inl (hostStep_unitWrites hhost).1
  · obtain hsame | ⟨hbusy, -, c, hpending, hstep⟩ := engineStep_cases s
    · rw [hsame]
      exact .inl .same
    · rw [hstep]
      exact .inr ⟨hbusy, rfl, c, hpending, rfl⟩
  · exact .inl .same

/-- A step does nothing else to UTX than an instruction can do, but for TX's own step. -/
theorem step_utx {s t : State} (h : step s = .next t) :
    (∃ bytes, UtxWrite s.clk.utx s.utx bytes t.clk.utx t.utx) ∨ (t.clk = s.clk ∧ t.utx = txUnitStep s.utx) := by
  obtain ⟨-, ⟨-, hhost⟩ | ⟨-, rfl⟩ | ⟨-, rfl⟩⟩ := step_next h
  · exact .inl (hostStep_unitWrites hhost).2
  · obtain hsame | ⟨-, -, c, -, hstep⟩ := engineStep_cases s
    · rw [hsame]
      exact .inl ⟨_, .same⟩
    · rw [hstep]
      exact .inl ⟨_, .same⟩
  · exact .inr ⟨rfl, rfl⟩

/-- R44 item 3: the phases in which NACKF may be set. -/
abbrev Phase.mayHoldNackf (p : Phase) : Prop := p = .addrW ∨ p = .addrR ∨ p = .dataW ∨ p = .stopped

/-- What the invariants say of I2CM and its clock bit (R44 items 1, 3, 4 and 6; R113, R116). -/
structure I2cmInv (k : Bool) (m : I2cmState) : Prop where
  busyIffPending : m.busy = true ↔ m.pending ≠ none
  nackfPhases : m.nackf = true → m.phase.mayHoldNackf
  disabledAtRest : m.en = false → m.busy = false ∧ (m.phase = .idle ∨ m.phase = .stopped)
  clocked : m.en = true → k = true
  pendingLegal : ∀ c, m.pending = some c → legal m.phase m.nackf c.op = none

/-- What the invariants say of UTX and its clock bit (R44 items 2, 5 and 6; R130, R134, R135). -/
structure UtxInv (k : Bool) (u : UtxState) : Prop where
  tcIffEmpty : u.tc = true ↔ u.tdr = none ∧ u.shift = none
  disabledComplete : u.en = false → u.tc = true
  clocked : u.en = true → k = true
  frameFixed : u.frame = 0x08#8

/-- Each invariant speaks of one unit. -/
theorem State.inv_iff (s : State) : s.Inv ↔ I2cmInv s.clk.i2c s.i2cm ∧ UtxInv s.clk.utx s.utx := by
  have hlegal : s.pendingLegal ↔ ∀ c, s.i2cm.pending = some c → legal s.i2cm.phase s.i2cm.nackf c.op = none := by
    simp [State.pendingLegal, Option.all_eq_true]
  constructor
  · rintro ⟨⟨hbusy, htc, hnackf, hrest, hcomplete, hi2c, hutx⟩, hpending, hframe⟩
    exact ⟨⟨hbusy, hnackf, hrest, hi2c, hlegal.mp hpending⟩, htc, hcomplete, hutx, hframe⟩
  · rintro ⟨⟨hbusy, hnackf, hrest, hi2c, hpending⟩, htc, hcomplete, hutx, hframe⟩
    exact ⟨⟨hbusy, htc, hnackf, hrest, hcomplete, hi2c, hutx⟩, hlegal.mpr hpending, hframe⟩

theorem I2cmInv.pending_eq_none {k : Bool} {m : I2cmState} (h : I2cmInv k m) (hbusy : m.busy = false) :
    m.pending = none := by
  simpa [hbusy] using h.busyIffPending

/-- R115: no transaction is open in IDLE and STOPPED. -/
theorem Phase.atRest_iff (p : Phase) : p.atRest = true ↔ p = .idle ∨ p = .stopped := by
  cases p <;> simp [Phase.atRest]

/-- R44, I2CM's part: no instruction breaks it. -/
theorem I2cmInv.write {k k' : Bool} {m m' : I2cmState} (h : I2cmInv k m) (hw : I2cmWrite k m k' m') :
    I2cmInv k' m' := by
  cases hw with
  | same => exact h
  | clock _ hgate => exact { h with clocked := fun hen => Bool.of_not_eq_false fun hk => by simp [hgate hk] at hen }
  | enable hclk hen =>
    have hbusy := (h.disabledAtRest hen).1
    exact { busyIffPending := h.busyIffPending, nackfPhases := nofun, disabledAtRest := nofun, clocked := fun _ => hclk
            pendingLegal := by simp [h.pending_eq_none hbusy] }
  | disable hbusy hrest =>
    have hphase := (Phase.atRest_iff m.phase).mp hrest
    exact { h with disabledAtRest := fun _ => ⟨hbusy, hphase⟩, clocked := nofun }
  | configure => exact { h with }
  | accept c hen hbusy hlegal =>
    exact { h with
      busyIffPending := by simp
      disabledAtRest := fun hoff => by cases hen.symm.trans hoff
      pendingLegal := by rintro _ ⟨⟩; exact hlegal }

/-- R117: a read is legal only in a read transaction whose address SLAVE acknowledged. -/
theorem place_of_legal_read {phase : Phase} {nackf : Bool} {op : CmdOp} (hop : op = .readAck ∨ op = .readNack)
    (hnackf : nackf = true → phase.mayHoldNackf)
    (h : legal phase nackf op = none) : (phase = .addrR ∨ phase = .dataR) ∧ nackf = false := by
  rw [legal_read hop] at h
  split_ifs at h with hnacked hphase
  refine ⟨hphase, Bool.eq_false_iff.mpr fun hset => ?_⟩
  obtain rfl | rfl := hphase
  · exact hnacked ⟨hset, .inr (.inl rfl)⟩
  · simpa [Phase.mayHoldNackf] using hnackf hset

/-- R118 to R123: a completion leaves NACKF set only in the phases R44 item 3 names. -/
theorem completion_nackfPhases {c : Command} {a : Bool} {d : Byte} {m : I2cmState}
    (hnackf : m.nackf = true → m.phase.mayHoldNackf)
    (hlegal : legal m.phase m.nackf c.op = none) (hset : (completion c a d m).nackf = true) :
    (completion c a d m).phase.mayHoldNackf := by
  cases c with
  | start => cases hset
  | addr b =>
    simp only [completion, completeCommand, completeAddr]
    split_ifs
    · exact .inr (.inl rfl)
    · exact .inl rfl
  | write b => exact .inr (.inr (.inl rfl))
  | readAck => cases (place_of_legal_read (.inl rfl) hnackf hlegal).2.symm.trans hset
  | readNack => cases (place_of_legal_read (.inr rfl) hnackf hlegal).2.symm.trans hset
  | stop => exact .inr (.inr (.inr rfl))

/-- R44, I2CM's part: no completion breaks it. -/
theorem I2cmInv.completion {k : Bool} {m : I2cmState} {c : Command} (h : I2cmInv k m) (hbusy : m.busy = true)
    (hc : m.pending = some c) (a : Bool) (d : Byte) : I2cmInv k (completion c a d m) := by
  obtain ⟨hen, -, -, hidle, hpending, -⟩ := completion_frame c a d m
  exact
    { busyIffPending := by simp [hidle, hpending]
      nackfPhases := completion_nackfPhases h.nackfPhases (h.pendingLegal c hc)
      disabledAtRest := fun hoff => by simp [(h.disabledAtRest (hen.symm.trans hoff)).1] at hbusy
      clocked := fun hon => h.clocked (hen.symm.trans hon)
      pendingLegal := by simp [hpending] }

/-- R44, UTX's part: no instruction breaks it. -/
theorem UtxInv.write {k k' : Bool} {u u' : UtxState} {bytes : List Byte} (h : UtxInv k u)
    (hw : UtxWrite k u bytes k' u') : UtxInv k' u' := by
  cases hw with
  | same => exact h
  | clock _ hgate => exact { h with clocked := fun hen => Bool.of_not_eq_false fun hk => by simp [hgate hk] at hen }
  | enable hclk => exact { h with disabledComplete := nofun, clocked := fun _ => hclk }
  | disable htdr hshift =>
    exact { h with disabledComplete := fun _ => h.tcIffEmpty.mpr ⟨htdr, hshift⟩, clocked := nofun }
  | baud => exact { h with }
  | frame => exact { h with frameFixed := rfl }
  | data b hen htdr =>
    exact { h with tcIffEmpty := by simp, disabledComplete := fun hoff => by cases hen.symm.trans hoff }

/-- R44, UTX's part: TX's step does not break it; a disabled UTX holds no byte, so TX has no step there. -/
theorem UtxInv.txUnitStep {k : Bool} {u : UtxState} (h : UtxInv k u) : UtxInv k (txUnitStep u) := by
  have htc := h.tcIffEmpty
  obtain ⟨hsame, -⟩ | ⟨x, hen, htdr, hshift, hload⟩ | ⟨x, hshift, -⟩ := txUnitStep_cases u
  · rwa [hsame]
  · rw [hload]
    exact { h with
      tcIffEmpty := by simpa [txLoad, htdr] using htc
      disabledComplete := fun hoff => by cases hen.symm.trans hoff }
  · have hbusy : u.tc = false := by simpa [hshift] using htc
    have hen : u.en = true := Bool.of_not_eq_false fun hoff => by cases hbusy.symm.trans (h.disabledComplete hoff)
    rw [txUnitStep_shiftOut hshift]
    exact { h with
      tcIffEmpty := by simp [hbusy]
      disabledComplete := fun hoff => by cases hen.symm.trans hoff }

/-- Settles O38: unit by unit, over what a step can do to each (`step_i2cm`, `step_utx`). -/
theorem stepKeepsInvariants : Obligations.StepKeepsInvariants := by
  intro s t hinv h
  rw [State.inv_iff] at hinv ⊢
  obtain ⟨hi2cm, hutx⟩ := hinv
  constructor
  · obtain hw | ⟨hbusy, hclk, c, hc, hm⟩ := step_i2cm h
    · exact hi2cm.write hw
    · rw [hclk, hm]
      exact hi2cm.completion hbusy hc _ _
  · obtain ⟨bytes, hw⟩ | ⟨hclk, hu⟩ := step_utx h
    · exact hutx.write hw
    · rw [hclk, hu]
      exact hutx.txUnitStep

/-- The invariants hold after reset, where both units are disabled and empty (R178). -/
theorem resetWith_inv (p : Params) : (State.resetWith p).Inv := by
  rw [State.inv_iff]
  constructor
  · exact { busyIffPending := iff_of_false nofun fun h => h rfl, nackfPhases := nofun
            disabledAtRest := fun _ => ⟨rfl, .inl rfl⟩, clocked := nofun, pendingLegal := nofun }
  · exact { tcIffEmpty := iff_of_true rfl ⟨rfl, rfl⟩, disabledComplete := fun _ => rfl, clocked := nofun
            frameFixed := rfl }

/-- The invariants hold after reset and every step keeps them; loading a program and taking free values touch no
unit. -/
theorem Reachable.inv {p : Params} {s : State} (h : Reachable p s) : s.Inv := by
  induction h with
  | reset => exact resetWith_inv p
  | load s program _ ih => exact ih
  | next s t c _ hstep ih => exact stepKeepsInvariants (s.withChoice c) t ih hstep

/-- Settles O39: a reachable state meets the invariants (`Reachable.inv`), whether FAULT is set or not. -/
theorem reachableStatesMeetRuleInvariants : Obligations.ReachableStatesMeetRuleInvariants :=
  fun _ _ h _ => h.inv.1

end Sys2Proof.Machine
end

section
/-! SUPPORT. Proofs about BUS_TRACE: it stays in the transaction grammar of R115, PHASE and NACKF say where it stands,
RXDATA is its last byte in (R33), and the read law and the write law of the grammar (R127, R128). -/

namespace Sys2Proof.Machine

/-- The wire event that a command's completion emits (R118 to R123). -/
def Command.event (a : Bool) (d : Byte) : Command → BusEvent
  | .start => .start
  | .addr b => .byteOut b a
  | .write b => .byteOut b a
  | .readAck => .byteIn d true
  | .readNack => .byteIn d false
  | .stop => .stop

theorem completion_busTrace (c : Command) (a : Bool) (d : Byte) (m : I2cmState) :
    (completion c a d m).busTrace = m.busTrace ++ [c.event a d] := by
  cases c <;> rfl

/-- R33: a completion writes RXDATA exactly when its event is a byte in. -/
theorem completion_rxdata (c : Command) (a : Bool) (d : Byte) (m : I2cmState) :
    (completion c a d m).rxdata = (lastByteIn [c.event a d]).or m.rxdata := by
  cases c <;> rfl

/-- No instruction touches BUS_TRACE or RXDATA. -/
theorem I2cmWrite.trace_eq {k k' : Bool} {m m' : I2cmState} (h : I2cmWrite k m k' m') :
    m'.busTrace = m.busTrace ∧ m'.rxdata = m.rxdata := by
  cases h <;> exact ⟨rfl, rfl⟩

theorem grammarRun_append (q : Phase × Bool) (es es' : List BusEvent) :
    grammarRun q (es ++ es') = (grammarRun q es).bind (grammarRun · es') := by
  induction es generalizing q with
  | nil => rfl
  | cons e es ih =>
    simp only [List.cons_append, grammarRun, Option.bind_assoc, ih]

theorem grammarRun_singleton (q : Phase × Bool) (e : BusEvent) : grammarRun q [e] = grammarStep q e := by
  simp [grammarRun]

/-- BUS_TRACE read from a place where it stands in the grammar goes on with an event as the grammar does. -/
theorem grammarRun_concat {q₀ q : Phase × Bool} {es : List BusEvent} (h : grammarRun q₀ es = some q) (e : BusEvent) :
    grammarRun q₀ (es ++ [e]) = grammarStep q e := by
  rw [grammarRun_append, h, Option.bind_some, grammarRun_singleton]

/-- Where a command's completion leads: PHASE, and NACKF from what it was (R118 to R123). -/
def Command.place (a nackf : Bool) : Command → Phase × Bool
  | .start => (.started, false)
  | .addr b => (if b.getLsbD 0 then .addrR else .addrW, nackfAfter a nackf)
  | .write _ => (.dataW, nackfAfter a nackf)
  | .readAck => (.dataR, nackf)
  | .readNack => (.dataRLast, nackf)
  | .stop => (.stopped, nackf)

theorem completion_place (c : Command) (a : Bool) (d : Byte) (m : I2cmState) :
    ((completion c a d m).phase, (completion c a d m).nackf) = c.place a m.nackf := by
  cases c <;> rfl

/-- R115, R117: from where PHASE and NACKF say BUS_TRACE stands, the grammar has the event of every legal command, and
leads to where its completion leads. -/
theorem grammarStep_event {c : Command} {phase : Phase} {nackf : Bool} (a : Bool) (d : Byte)
    (hnackf : nackf = true → phase.mayHoldNackf)
    (hlegal : legal phase nackf c.op = none) :
    grammarStep (phase, nackf) (c.event a d) = some (c.place a nackf) := by
  cases c with
  | start =>
    have h := (legal_start _ _).symm.trans hlegal
    split_ifs at h with _ hphase
    obtain rfl | rfl := hphase <;> rfl
  | addr b =>
    have h := (legal_addr _ _).symm.trans hlegal
    split_ifs at h with hphase
    subst hphase
    cases nackf with
    | true => simp [Phase.mayHoldNackf] at hnackf
    | false => cases a <;> rfl
  | write b =>
    have h := (legal_write _ _).symm.trans hlegal
    split_ifs at h with hset hphase
    have hclear : nackf = false := by
      obtain rfl | rfl := hphase <;> simpa using hset
    subst hclear
    obtain rfl | rfl := hphase <;> cases a <;> rfl
  | readAck =>
    obtain ⟨rfl | rfl, rfl⟩ := place_of_legal_read (.inl rfl) hnackf hlegal <;> rfl
  | readNack =>
    obtain ⟨rfl | rfl, rfl⟩ := place_of_legal_read (.inr rfl) hnackf hlegal <;> rfl
  | stop =>
    have h := (legal_stop _ _).symm.trans hlegal
    split_ifs at h with hphase
    obtain rfl | rfl | rfl | ⟨rfl, rfl⟩ := hphase
    · cases nackf <;> rfl
    · cases nackf <;> rfl
    · rfl
    · rfl

/-- R115: a transaction begins wherever none is open. -/
theorem grammarStep_start {q : Phase × Bool} (h : q.1 = .idle ∨ q.1 = .stopped) :
    grammarStep q .start = some (.started, false) := by
  obtain ⟨phase, nackf⟩ := q
  obtain rfl | rfl := h <;> rfl

/-- R117: with I2CM idle, only START is legal. -/
theorem eq_start_of_legal_idle {c : Command} (h : legal .idle false c.op = none) : c = .start := by
  cases c with
  | start => rfl
  | _ => cases h

/-- R115 of I2CM alone: what `State.traceWellFormed` says of the unit. -/
def I2cmState.inGrammar (m : I2cmState) : Prop :=
  ∃ q, grammarRun (.idle, false) m.busTrace = some q ∧
    (q = (m.phase, m.nackf) ∨ (m.phase = .idle ∧ m.nackf = false ∧ (q.1 = .idle ∨ q.1 = .stopped)))

theorem State.traceWellFormed_iff (s : State) : s.traceWellFormed ↔ s.i2cm.inGrammar := Iff.rfl

/-- R115: no instruction leads out of the grammar; an enable finds no transaction open (R44 item 4). -/
theorem I2cmState.inGrammar.write {k k' : Bool} {m m' : I2cmState} (h : m.inGrammar) (hinv : I2cmInv k m)
    (hw : I2cmWrite k m k' m') : m'.inGrammar := by
  cases hw with
  | same | clock | disable | configure | accept => exact h
  | enable _ hen =>
    obtain ⟨q, hrun, hq⟩ := h
    refine ⟨q, hrun, .inr ⟨rfl, rfl, ?_⟩⟩
    obtain rfl | ⟨-, -, hrest⟩ := hq
    · exact (hinv.disabledAtRest hen).2
    · exact hrest

/-- R115: a completion goes on in the grammar; from PHASE = IDLE behind a whole transaction only START is legal. -/
theorem I2cmState.inGrammar.completion {k : Bool} {m : I2cmState} {c : Command} (h : m.inGrammar) (hinv : I2cmInv k m)
    (hc : m.pending = some c) (a : Bool) (d : Byte) : (completion c a d m).inGrammar := by
  have hlegal := hinv.pendingLegal c hc
  obtain ⟨q, hrun, rfl | ⟨hidle, hclear, hrest⟩⟩ := h
  · refine ⟨c.place a m.nackf, ?_, .inl (completion_place c a d m).symm⟩
    rw [completion_busTrace, grammarRun_concat hrun, grammarStep_event a d hinv.nackfPhases hlegal]
  · rw [hidle, hclear] at hlegal
    obtain rfl := eq_start_of_legal_idle hlegal
    refine ⟨(.started, false), ?_, .inl rfl⟩
    rw [completion_busTrace, grammarRun_concat hrun, Command.event, grammarStep_start hrest]

/-- Settles O40: over what a step can do to I2CM (`step_i2cm`). -/
theorem stepKeepsTransactionGrammar : Obligations.StepKeepsTransactionGrammar := by
  intro s t hinv htrace h
  have hi2cm := ((State.inv_iff s).mp hinv).1
  obtain hw | ⟨-, -, c, hc, hm⟩ := step_i2cm h
  · exact I2cmState.inGrammar.write htrace hi2cm hw
  · rw [State.traceWellFormed_iff, hm]
    exact I2cmState.inGrammar.completion htrace hi2cm hc _ _

/-- Settles O37: `resetWith_inv`, and the empty trace is in the grammar. -/
theorem resetMeetsInvariants : Obligations.ResetMeetsInvariants :=
  fun p => ⟨resetWith_inv p, _, rfl, .inl rfl⟩

theorem lastByteIn_append (es : List BusEvent) (e : BusEvent) :
    lastByteIn (es ++ [e]) = (lastByteIn [e]).or (lastByteIn es) := by
  induction es with
  | nil => simp [lastByteIn]
  | cons e' es ih =>
    cases e' with
    | byteIn b a =>
      simp only [List.cons_append, lastByteIn, ih]
      cases lastByteIn [e] <;> simp
    | _ => exact ih

/-- Settles O45: only a completion touches RXDATA or BUS_TRACE, and it touches them together. -/
theorem rxdataIsLastByteIn : Obligations.RxdataIsLastByteIn := by
  intro s t hrx h
  obtain hw | ⟨-, -, c, -, hm⟩ := step_i2cm h
  · rw [hw.trace_eq.1, hw.trace_eq.2, hrx]
  · rw [hm, completion_rxdata, completion_busTrace, lastByteIn_append, hrx]

end Sys2Proof.Machine
end

section
/-! SUPPORT. The read law and the write law (42_i2c_commands section 3, R127 and R128), over the grammar that BUS_TRACE
keeps (`stepKeepsTransactionGrammar`). -/

namespace Sys2Proof.Machine

/-- The grammar's run over an event and what follows it goes through the event's place. -/
theorem grammarRun_cons_eq_some {q q' : Phase × Bool} {e : BusEvent} {es : List BusEvent} :
    grammarRun q (e :: es) = some q' ↔ ∃ p, grammarStep q e = some p ∧ grammarRun p es = some q' := by
  rw [grammarRun, Option.bind_eq_some_iff]

/-- R127: in a read transaction, each event is a byte in, and the byte that the master NACKs is the last. -/
theorem grammarStep_read {phase : Phase} {e : BusEvent} {q : Phase × Bool} (hphase : phase = .addrR ∨ phase = .dataR)
    (h : grammarStep (phase, false) e = some q) :
    ∃ b a, e = .byteIn b a ∧ q = (if a then .dataR else .dataRLast, false) := by
  obtain rfl | rfl := hphase
  all_goals
    cases e with
    | byteIn b a => cases a <;> cases h <;> exact ⟨b, _, rfl, rfl⟩
    | _ => cases h

/-- R128: in a write transaction whose bytes SLAVE acknowledged, an event is a byte out or the end. -/
theorem grammarStep_write {phase : Phase} {e : BusEvent} {q : Phase × Bool} (hphase : phase = .addrW ∨ phase = .dataW)
    (h : grammarStep (phase, false) e = some q) :
    (∃ b a, e = .byteOut b a ∧ q = (.dataW, !a)) ∨ (e = .stop ∧ q = (.stopped, false)) := by
  obtain rfl | rfl := hphase
  all_goals
    cases e with
    | byteOut b a => cases h; exact .inl ⟨b, a, rfl, rfl⟩
    | stop => cases h; exact .inr ⟨rfl, rfl⟩
    | _ => cases h

/-- R127, R128: after a byte that was NACKed, of either direction, only the end comes. -/
theorem grammarStep_nacked {p q : Phase × Bool} {e : BusEvent} (hp : p = (.dataRLast, false) ∨ p = (.dataW, true))
    (h : grammarStep p e = some q) : e = .stop ∧ q = (.stopped, p.2) := by
  obtain rfl | rfl := hp
  all_goals
    cases e with
    | stop => cases h; exact ⟨rfl, rfl⟩
    | _ => cases h

/-- So there are no more events up to STOP. -/
theorem grammarRun_nacked {p q : Phase × Bool} {es : List BusEvent} (hp : p = (.dataRLast, false) ∨ p = (.dataW, true))
    (hstop : BusEvent.stop ∉ es) (h : grammarRun p (es ++ [.stop]) = some q) : es = [] ∧ q = (.stopped, p.2) := by
  cases es with
  | nil =>
    rw [List.nil_append, grammarRun_singleton] at h
    exact ⟨rfl, (grammarStep_nacked hp h).2⟩
  | cons e es =>
    obtain ⟨p', hstep, -⟩ := grammarRun_cons_eq_some.mp h
    exact absurd (grammarStep_nacked hp hstep).1 fun he => hstop (by simp [he])

/-- The read law, from every place before the last byte in. -/
theorem readLaw_from {phase : Phase} {q : Phase × Bool} {es : List BusEvent}
    (hphase : phase = .addrR ∨ phase = .dataR) (hstop : BusEvent.stop ∉ es)
    (h : grammarRun (phase, false) (es ++ [.stop]) = some q) :
    q = (.stopped, false) ∧
      ∃ (ds : List Byte) (d : Byte), es = ds.map (fun b => BusEvent.byteIn b true) ++ [.byteIn d false] := by
  induction es generalizing phase with
  | nil =>
    rw [List.nil_append, grammarRun_singleton] at h
    obtain ⟨b, a, he, -⟩ := grammarStep_read hphase h
    cases he
  | cons e es ih =>
    obtain ⟨p, hstep, hrun⟩ := grammarRun_cons_eq_some.mp h
    obtain ⟨b, a, rfl, rfl⟩ := grammarStep_read hphase hstep
    have hstop' : BusEvent.stop ∉ es := fun hmem => hstop (List.mem_cons_of_mem _ hmem)
    cases a with
    | true =>
      obtain ⟨hq, ds, d, rfl⟩ := ih (.inr rfl) hstop' hrun
      exact ⟨hq, b :: ds, d, rfl⟩
    | false =>
      obtain ⟨rfl, hq⟩ := grammarRun_nacked (.inl rfl) hstop' hrun
      exact ⟨hq, [], b, rfl⟩

/-- Settles O41: `readLaw_from`, which holds along the acknowledged bytes. -/
theorem readLaw : Obligations.ReadLaw :=
  fun _ _ => readLaw_from (.inl rfl)

/-- The write law, from every place where no byte has been NACKed. -/
theorem writeLaw_from {phase : Phase} {q : Phase × Bool} {es : List BusEvent}
    (hphase : phase = .addrW ∨ phase = .dataW) (hstop : BusEvent.stop ∉ es)
    (h : grammarRun (phase, false) (es ++ [.stop]) = some q) :
    (q = (.stopped, false) ∧ ∃ ds : List Byte, es = ds.map (fun b => BusEvent.byteOut b true)) ∨
      (q = (.stopped, true) ∧
        ∃ (ds : List Byte) (d : Byte), es = ds.map (fun b => BusEvent.byteOut b true) ++ [.byteOut d false]) := by
  induction es generalizing phase with
  | nil =>
    rw [List.nil_append, grammarRun_singleton] at h
    obtain ⟨b, a, he, -⟩ | ⟨-, hq⟩ := grammarStep_write hphase h
    · cases he
    · exact .inl ⟨hq, [], rfl⟩
  | cons e es ih =>
    obtain ⟨p, hstep, hrun⟩ := grammarRun_cons_eq_some.mp h
    have hstop' : BusEvent.stop ∉ es := fun hmem => hstop (List.mem_cons_of_mem _ hmem)
    obtain ⟨b, a, rfl, rfl⟩ | ⟨rfl, -⟩ := grammarStep_write hphase hstep
    · cases a with
      | true =>
        obtain ⟨hq, ds, rfl⟩ | ⟨hq, ds, d, rfl⟩ := ih (.inr rfl) hstop' hrun
        · exact .inl ⟨hq, b :: ds, rfl⟩
        · exact .inr ⟨hq, b :: ds, d, rfl⟩
      | false =>
        obtain ⟨rfl, hq⟩ := grammarRun_nacked (.inr rfl) hstop' hrun
        exact .inr ⟨hq, [], b, rfl⟩
    · exact absurd (List.mem_cons_self ..) hstop

/-- Settles O42: `writeLaw_from`, which holds along the acknowledged bytes. -/
theorem writeLaw : Obligations.WriteLaw :=
  fun _ _ => writeLaw_from (.inl rfl)

end Sys2Proof.Machine
end

section
/-! SUPPORT. What every instruction and every step leaves alone: the frame of an instruction (20_memory section 3), of a
command (R116) and of a fault (R165, R167), the traces (R34, R41), the parameters and the host's program (00_scope
section 3), and the turns that change nothing (R18, R189). -/

namespace Sys2Proof.Machine

/-- Settles O52: a fault changes FAULT alone; an effect changes what its instruction's row of `Effect` names. -/
theorem instructionFrame : Obligations.InstructionFrame := by
  intro i s t h
  obtain ⟨-, ⟨c, info, rfl⟩ | heffect⟩ := exec_next h
  · simp
  · cases i with
    | ldClkClken | ldI2cmCtrl | ldI2cmClkdiv | ldI2cmOwnaddr | ldI2cmStatus | ldUtxCtrl | ldUtxBaud | ldUtxFrame
    | ldUtxStatus =>
      cases heffect
      simp [readInstrs]
    | ldI2cmRxdata =>
      obtain ⟨b, -, rfl⟩ := heffect
      simp [readInstrs]
    | stClkClken v =>
      obtain ⟨rfl, -⟩ := heffect
      simp [instrUnit, readInstrs]
    | stI2cmClkdiv v | stI2cmOwnaddr v | stUtxBaud v | stUtxFrame v =>
      obtain ⟨-, rfl⟩ := heffect
      simp [instrUnit, readInstrs]
    | stUtxData v =>
      obtain ⟨-, -, rfl⟩ := heffect
      simp [instrUnit, readInstrs]
    | stI2cmCtrl v | stUtxCtrl v =>
      obtain rfl | ⟨-, -, -, rfl⟩ | ⟨-, -, -, rfl⟩ := heffect <;> simp [instrUnit, readInstrs]
    | stI2cmCmd | i2cStart | i2cAddr | i2cWrite | i2cReadAck | i2cReadNack | i2cStop | reservedOp0 | reservedOp7 =>
      obtain ⟨-, -, c, -, rfl⟩ := heffect
      simp [instrUnit, readInstrs]

/-- What an access leaves alone, whatever instruction it is: the parameters, the host's program and the traces. -/
theorem AccessResult.frame {s u : State} (h : AccessResult s u) :
    u.params = s.params ∧ u.host.program = s.host.program ∧ u.i2cm.busTrace = s.i2cm.busTrace ∧
      u.utx.lineTrace = s.utx.lineTrace := by
  obtain ⟨-, ⟨c, info, rfl⟩ | ⟨i, hexec, -⟩⟩ := h
  · exact ⟨rfl, rfl, rfl, rfl⟩
  · obtain ⟨hhost, hparams, -, -, -, -, -, -, -, hbus, hline, -⟩ := instructionFrame i s u hexec
    exact ⟨hparams, congrArg HostState.program hhost, hbus, hline⟩

/-- HOST's turn leaves the same alone. -/
theorem hostStep_frame {s t : State} (h : hostStep s = .next t) :
    t.params = s.params ∧ t.host.program = s.host.program ∧ t.i2cm.busTrace = s.i2cm.busTrace ∧
      t.utx.lineTrace = s.utx.lineTrace := by
  obtain ⟨u, rfl | hu, regs, pc, rfl⟩ := hostStep_ownPart h
  · exact ⟨rfl, rfl, rfl, rfl⟩
  · exact hu.frame

/-- ENGINE's turn touches I2CM alone. -/
theorem engineStep_eq (s : State) : engineStep s = { s with i2cm := (engineStep s).i2cm } := by
  obtain hsame | ⟨-, -, c, -, hstep⟩ := engineStep_cases s
  · rw [hsame]
  · rw [hstep]

/-- ENGINE's turn appends at most one event to BUS_TRACE. -/
theorem engineStep_busTrace (s : State) :
    (engineStep s).i2cm.busTrace = s.i2cm.busTrace ∨ ∃ e, (engineStep s).i2cm.busTrace = s.i2cm.busTrace ++ [e] := by
  obtain hsame | ⟨-, -, c, -, hstep⟩ := engineStep_cases s
  · exact .inl (by rw [hsame])
  · exact .inr ⟨_, by rw [hstep, completion_busTrace]⟩

/-- TX's step appends at most one byte to LINE_TRACE. -/
theorem txUnitStep_lineTrace (u : UtxState) :
    (txUnitStep u).lineTrace = u.lineTrace ∨ ∃ b, (txUnitStep u).lineTrace = u.lineTrace ++ [b] := by
  obtain ⟨hsame, -⟩ | ⟨x, -, -, -, hload⟩ | ⟨x, hshift, -⟩ := txUnitStep_cases u
  · exact .inl (by rw [hsame])
  · exact .inl (by rw [hload, txLoad])
  · exact .inr ⟨x, by rw [txUnitStep_shiftOut hshift]⟩

/-- Settles O46: HOST appends nothing, ENGINE an event, TX a byte. -/
theorem tracesOnlyGrow : Obligations.TracesOnlyGrow := by
  intro s t h
  obtain ⟨-, ⟨-, hhost⟩ | ⟨hturn, rfl⟩ | ⟨hturn, rfl⟩⟩ := step_next h
  · obtain ⟨-, -, hbus, hline⟩ := hostStep_frame hhost
    exact ⟨.inl hbus, .inl hline⟩
  · refine ⟨(engineStep_busTrace s).imp_right fun hgrow => ⟨hturn, hgrow⟩, .inl ?_⟩
    rw [engineStep_eq]
    rfl
  · exact ⟨.inl rfl, (txUnitStep_lineTrace s.utx).imp_right fun hgrow => ⟨hturn, hgrow⟩⟩

/-- Settles O58: `hostStep_frame`; ENGINE and TX touch a unit alone. -/
theorem parametersAreConstant : Obligations.ParametersAreConstant := by
  intro s t h
  obtain ⟨-, ⟨-, hhost⟩ | ⟨-, rfl⟩ | ⟨-, rfl⟩⟩ := step_next h
  · obtain ⟨hparams, hprogram, -⟩ := hostStep_frame hhost
    exact ⟨hparams, hprogram⟩
  · rw [engineStep_eq]
    exact ⟨rfl, rfl⟩
  · exact ⟨rfl, rfl⟩

/-- Every instruction is an access to one register of its unit, and so passes that unit's clock check (R105, R164). -/
theorem exec_eq_hostAccess (i : Instr) (s : State) :
    ∃ r d v body, r.unit = instrUnit i ∧ exec i s = hostAccess r d v body s := by
  cases i <;> exact ⟨_, _, _, _, rfl, rfl⟩

/-- Settles O49: a fault is a raise behind which the host stands still (`step_raised`), and every instruction is an
access, which a stopped run answers by the fault's name. -/
theorem faultedRunStandsStill : Obligations.FaultedRunStandsStill := by
  refine ⟨?faulted, fun s f hf => ⟨whileRunning_stopped hf, fun i => ?_⟩⟩
  case faulted =>
    intro s t f h hfault
    obtain ⟨-, -, -, c, info, rfl⟩ := step_raised h (by simp [hfault])
    exact ⟨rfl, rfl⟩
  obtain ⟨r, d, v, body, -, hexec⟩ := exec_eq_hostAccess i s
  rw [hexec]
  exact whileRunning_stopped hf

/-- R162: the codes whose record holds PHASE are F11 to F14. -/
theorem FaultCode.recordsPhase_iff (c : FaultCode) : c.recordsPhase = true ↔ 11 ≤ c.number ∧ c.number ≤ 14 := by
  cases c <;> decide

/-- Settles O50: `step_raised`, and the record that a raise leaves. -/
theorem onlyHostAccessesFault : Obligations.OnlyHostAccessesFault := by
  intro s t f h hfault
  obtain ⟨-, hturn, hop, c, info, rfl⟩ := step_raised h (by simp [hfault])
  refine ⟨hturn, hop, ?_⟩
  cases hfault
  simp only [FaultCode.recordsPhase_iff]

/-- Settles O53: a command is a CMD write, which raises a fault or accepts a command (`commandWrite_next`). -/
theorem commandFrame : Obligations.CommandFrame := by
  intro i s t hi h
  have hwrite : ∃ w, exec i s = commandWrite w s := by
    obtain ⟨v, rfl⟩ | rfl | ⟨a, d, rfl⟩ | ⟨b, rfl⟩ | rfl | rfl | rfl | ⟨r, rfl⟩ | ⟨r, rfl⟩ := hi <;> exact ⟨_, rfl⟩
  obtain ⟨w, hw⟩ := hwrite
  obtain ⟨-, ⟨c, info, rfl⟩ | ⟨-, hbusy, c, hlegal, rfl⟩⟩ := commandWrite_next (hw ▸ h)
  · exact .inr ⟨_, rfl⟩
  · exact .inl ⟨c, rfl, hbusy, hlegal⟩

/-- HOST's turn while the run goes on. -/
theorem step_host {s : State} (hf : s.fault = none) (hturn : s.choice.turn = .host) : step s = hostStep s := by
  simp only [step, agentStep, whileRunning_running hf, hturn]

/-- Settles O31: by the case each agent's step gives to a step that is not enabled. -/
theorem disabledTurnChangesNothing : Obligations.DisabledTurnChangesNothing := by
  intro s hf
  refine ⟨?engine, ?tx, ?host⟩
  case engine =>
    intro hturn hdisabled
    obtain hsame | ⟨hbusy, hrelease, -⟩ := engineStep_cases s
    · rw [step_engine hf hturn, hsame]
    · simp [hbusy, hrelease] at hdisabled
  case tx =>
    intro hturn hshift hdisabled
    obtain ⟨hsame, -⟩ | ⟨x, hen, htdr, -⟩ | ⟨x, hload, -⟩ := txUnitStep_cases s.utx
    · rw [step_tx hf hturn, txStep, hsame]
    · simp [hen, htdr] at hdisabled
    · simp [hshift] at hload
  case host =>
    intro hturn hend
    rw [step_host hf hturn, hostStep, hend]

/-- Settles O57: at an end of a run no agent's step is enabled. -/
theorem endOfRunIsFinal : Obligations.EndOfRunIsFinal := by
  rintro s ⟨hf, hbusy, htdr, hshift, hend⟩
  obtain ⟨hengine, htx, hhost⟩ := disabledTurnChangesNothing s hf
  refine ⟨?step, ⟨hf, hbusy, htdr, hshift, hend⟩, rfl⟩
  cases hturn : s.choice.turn with
  | host => exact hhost hturn hend
  | engine => exact hengine hturn (.inl hbusy)
  | tx => exact htx hturn hshift (.inr htdr)

end Sys2Proof.Machine
end

section
/-! SUPPORT. Proofs about UTX's bytes: none is lost, doubled or reordered on its way to the line (43_uart_tx sections 2
and 3), and an enabled transmitter drains. -/

namespace Sys2Proof.Machine

/-- An instruction adds the bytes it gives UTX behind those UTX holds. -/
theorem UtxWrite.stream_eq {k k' : Bool} {u u' : UtxState} {bytes : List Byte} (h : UtxWrite k u bytes k' u') :
    u'.stream = u.stream ++ bytes := by
  cases h with
  | data b hen htdr => simp [UtxState.stream, htdr]
  | _ => simp [UtxState.stream]

/-- R138, R139: a byte only moves on, from TDR to SHIFT or from SHIFT to the line. -/
theorem txUnitStep_stream (u : UtxState) : (txUnitStep u).stream = u.stream := by
  obtain ⟨hsame, -⟩ | ⟨x, -, htdr, hshift, hload⟩ | ⟨x, hshift, -⟩ := txUnitStep_cases u
  · rw [hsame]
  · simp [hload, txLoad, UtxState.stream, htdr, hshift]
  · simp [txUnitStep_shiftOut hshift, UtxState.stream, hshift]

/-- Settles O43: an instruction that raises no fault does what `UtxWrite` says, ENGINE nothing, TX a move. -/
theorem utxBytesInOrder : Obligations.UtxBytesInOrder := by
  refine ⟨?instr, ?turn⟩
  case instr =>
    intro i s t h ht
    obtain ⟨-, ⟨c, info, rfl⟩ | heffect⟩ := exec_next h
    · cases ht
    · exact heffect.unitWrites.2.stream_eq
  case turn =>
    intro s t hturn h
    obtain ⟨-, ⟨hhost, -⟩ | ⟨-, rfl⟩ | ⟨-, rfl⟩⟩ := step_next h
    · exact absurd hhost hturn
    · rw [engineStep_eq]
      rfl
    · exact txUnitStep_stream s.utx

/-- TX has no step when UTX holds no byte. -/
theorem txUnitStep_empty {u : UtxState} (htdr : u.tdr = none) (hshift : u.shift = none) : txUnitStep u = u := by
  simp only [txUnitStep, hshift, htdr]

/-- With SHIFT empty, a load and a shift-out are all there is to do. -/
theorem txUnitStep_twice_empty {u : UtxState} (hen : u.en = true) (hshift : u.shift = none) :
    (txUnitStep (txUnitStep u)).tdr = none ∧ (txUnitStep (txUnitStep u)).shift = none := by
  cases htdr : u.tdr with
  | none => simp [txUnitStep_empty htdr hshift, htdr, hshift]
  | some x =>
    rw [txUnitStep_load hen htdr hshift, txUnitStep_shiftOut rfl]
    exact ⟨rfl, rfl⟩

/-- Three steps are enough: a byte in SHIFT goes out first, and leaves SHIFT empty. -/
theorem txUnitStep_thrice_empty {u : UtxState} (hen : u.en = true) :
    (txUnitStep (txUnitStep (txUnitStep u))).tdr = none ∧ (txUnitStep (txUnitStep (txUnitStep u))).shift = none := by
  cases hshift : u.shift with
  | none =>
    obtain ⟨htdr, hshift⟩ := txUnitStep_twice_empty hen hshift
    rw [txUnitStep_empty htdr hshift]
    exact ⟨htdr, hshift⟩
  | some x =>
    rw [txUnitStep_shiftOut hshift]
    exact txUnitStep_twice_empty hen rfl

/-- Settles O44: after three steps UTX is empty, so its stream, which TX keeps, is the line, and TC is set by R44. -/
theorem transmitterDrains : Obligations.TransmitterDrains := by
  intro s hinv hen
  simp only [txStep_utx]
  obtain ⟨htdr, hshift⟩ := txUnitStep_thrice_empty hen
  have hutx := ((State.inv_iff s).mp hinv).2.txUnitStep.txUnitStep.txUnitStep
  have hstream : (txUnitStep (txUnitStep (txUnitStep s.utx))).stream = s.utx.stream := by
    simp only [txUnitStep_stream]
  refine ⟨?line, htdr, hshift, hutx.tcIffEmpty.mpr ⟨htdr, hshift⟩⟩
  rw [← hstream, UtxState.stream, htdr, hshift]
  simp

end Sys2Proof.Machine
end

section
/-! SUPPORT. Proofs about HOST's operations: the order of the common checks on an access (60_exceptions section 2,
R164), the access that is an instruction (20_memory section 1), and what a step of the host program is (30_encoding
section 6, R101, R102). -/

namespace Sys2Proof.Machine

/-- R82 to R84: every register stands at a multiple of 4. -/
theorem regOff_aligned (r : RegName) : r.off.toNat % 4 = 0 := by
  cases r <;> rfl

/-- A descriptor that an access forms and that decodes is one of a register of the window. -/
theorem decode_accDesc_ok {u : BlockUnit} {d : Direction} {off : Byte} {v : Word} {i : Instr}
    (h : decode (.acc (accDesc u d off) v) = .ok i) : ∃ r, r.unit = u ∧ r.off = off ∧ accInstr r d v = .ok i := by
  rw [decode_accDesc] at h
  split at h
  · cases h
  · rename_i r hr
    obtain ⟨hunit, hoff⟩ := regAt_eq_some hr
    exact ⟨r, hunit, hoff, h⟩

theorem performAccess_of_decode {e : Encoded} {i : Instr} {s : State} (h : decode e = .ok i) :
    performAccess e s = exec i s := by
  rw [performAccess, h]

/-- Settles O9: only a register's offset decodes, and it is aligned. -/
theorem wordAccessIsItsInstruction : Obligations.WordAccessIsItsInstruction := by
  intro s u off d v i hw h
  obtain ⟨r, -, rfl, -⟩ := decode_accDesc_ok h
  rw [memAccess_base hw u (regOff_aligned r), performAccess_of_decode h]

/-- R61 backwards, without any condition on the windows: what an address decodes to says where it stands. -/
theorem eq_base_add_of_decodeAddr {p : Params} {addr : Word} {u : BlockUnit} {off : Byte}
    (h : decodeAddr p addr = some (u, off)) : p.base u + off.setWidth 32 = addr := by
  have base_add {base : Word} (hw : inWindow base addr = true) :
      base + ((addr - base).setWidth 8).setWidth 32 = addr := by
    obtain ⟨hle, hlt⟩ := (inWindow_iff base addr).mp hw
    rw [setWidth_sub_eq_ofNat hle]
    bv_omega
  unfold decodeAddr at h
  split_ifs at h with hclk hi2cm hutx
  · cases h
    exact base_add hclk
  · cases h
    exact base_add hi2cm
  · cases h
    exact base_add hutx

/-- R164: the clock check of a unit's window. -/
theorem gated_iff (u : BlockUnit) (s : State) :
    s.gated u = true ↔ (u = .i2cm ∧ s.clk.i2c = false) ∨ (u = .utx ∧ s.clk.utx = false) := by
  cases u <;> simp [State.gated]

/-- R65, R164: once the clock check is passed, an access that the decoder refuses for its direction raises the fault it
is refused with; `hrefuse` is that refusal. -/
theorem performAccess_wrongDirection {r : RegName} {d : Direction} {v : Word} {c : FaultCode} {s : State}
    (hrefuse : performAccess (.acc (accDesc r.unit d r.off) v) s = hostAccess r d (recordedValue d v) (.error c) s)
    (hc : c.recordsPhase = false) (hf : s.fault = none) (hg : s.gated r.unit = false) :
    performAccess (.acc (accDesc r.unit d r.off) v) s =
      .next (s.withFault c (s.params.base r.unit + r.off.setWidth 32) 4 d (recordedValue d v) none) := by
  rw [hrefuse, hostAccess_clocked hf hg, conclude_error, State.raise_eq, hc]
  rfl

/-- R82 to R84: in every other direction than the refused ones, an access to a register is an instruction. -/
theorem accInstr_ok {r : RegName} {d : Direction} (v : Word)
    (hwrite : ¬(d = .write ∧ (r = .i2cmStatus ∨ r = .i2cmRxdata ∨ r = .utxStatus)))
    (hread : ¬(d = .read ∧ (r = .i2cmCmd ∨ r = .utxData))) : ∃ i, accInstr r d v = .ok i := by
  cases r <;> cases d <;> simp [accInstr] at hwrite hread ⊢

/-- Settles O8: R164's checks in their order, each by what `memAccess` and `performAccess` answer where it applies. -/
theorem commonAccessChecks : Obligations.CommonAccessChecks := by
  intro addr n d v s u off hf ha
  simp only [← recordedValue_eq, ← badWidth_iff, ← gated_iff]
  have haddr := eq_base_add_of_decodeAddr ha
  split
  case isTrue hbad => exact memAccess_badWidth hf ha hbad d v
  case isFalse hwidth =>
  rw [memAccess_aligned ha (Bool.eq_false_iff.mpr hwidth)]
  split
  case isTrue hnone => rw [performAccess_unmapped hf hnone, haddr]
  case isFalse hsome =>
  obtain ⟨r, hr⟩ := Option.ne_none_iff_exists'.mp hsome
  obtain ⟨rfl, rfl⟩ := regAt_eq_some hr
  simp only [regAt_off, Option.some.injEq]
  split_ifs with hgated hwrite hread
  · rw [performAccess_gated rfl hf hgated, haddr, recordedValue_eq]
  · obtain ⟨rfl, rfl | rfl | rfl⟩ := hwrite
    all_goals
      rw [← haddr]
      exact performAccess_wrongDirection rfl rfl hf (Bool.eq_false_iff.mpr hgated)
  · obtain ⟨rfl, rfl | rfl⟩ := hread
    all_goals
      rw [← haddr]
      exact performAccess_wrongDirection rfl rfl hf (Bool.eq_false_iff.mpr hgated)
  · obtain ⟨i, hi⟩ := accInstr_ok v hwrite hread
    have hdecode : decode (.acc (accDesc r.unit d r.off) v) = .ok i := by
      simp only [decode_accDesc, regAt_off, hi]
    exact ⟨i, hdecode, performAccess_of_decode hdecode⟩

/-- How an operation goes on after its access, as FAULT decides. -/
theorem afterAccess_eq (own : State → State) (o : Host.Outcome State Fault Refusal) :
    afterAccess own o =
      match o with
      | .next t => .next (if t.fault = none then (own t).advancePc.refresh else t.refresh)
      | .fault r => .fault r
      | .refused r => .refused r := by
  cases o with
  | next t => cases h : t.fault <;> simp [afterAccess, h]
  | fault r => rfl
  | refused r => rfl

/-- A step of HOST runs the operation that its program counter points to. -/
theorem step_hostOp {s : State} {op : HostOp} (hf : s.fault = none) (hturn : s.choice.turn = .host)
    (hop : s.host.program[s.host.pc]? = some op) : step s = hostOpStep op s := by
  rw [step_host hf hturn, hostStep, hop]

/-- Settles O54: the operation is the access of its encoding, which the decoder turns into i. -/
theorem stepRunsDecodedInstruction : Obligations.StepRunsDecodedInstruction := by
  intro s e i hf hturn hop hdecode
  rw [step_hostOp hf hturn hop, hostOpStep, performAccess_of_decode hdecode]
  exact afterAccess_eq noResult (exec i s)

/-- Settles O55: the descriptor's access is the access at its address (`memAccess_base`). -/
theorem loadAndStoreAreAccesses : Obligations.LoadAndStoreAreAccesses := by
  intro s r hf hturn hw
  simp only [memAccess_base hw r.unit (regOff_aligned r)]
  refine ⟨fun rd hop => ?load, fun src hop => ?store⟩
  case load => exact (step_hostOp hf hturn hop).trans (afterAccess_eq (takeResult rd) _)
  case store => exact (step_hostOp hf hturn hop).trans (afterAccess_eq noResult _)

theorem hostBranch_eq (c : Bool) (k : Nat) (s : State) :
    hostBranch c k s =
      .next (State.refresh { s with host := { s.host with pc := if c then k else s.host.pc + 1 } }) := by
  cases c <;> rfl

/-- R101: a left shift of a word multiplies, modulo 2^32. -/
theorem shiftLeft_eq_ofNat (v : Word) (n : Nat) : v <<< n = BitVec.ofNat 32 (v.toNat * 2 ^ n) :=
  BitVec.eq_of_toNat_eq (by simp [Nat.shiftLeft_eq])

/-- R101: a right shift of a word divides. -/
theorem shiftRight_eq_ofNat (v : Word) (n : Nat) : v >>> n = BitVec.ofNat 32 (v.toNat / 2 ^ n) := by
  have hlt : v.toNat / 2 ^ n < 2 ^ 32 := (Nat.div_le_self _ _).trans_lt v.isLt
  apply BitVec.eq_of_toNat_eq
  rw [BitVec.toNat_ushiftRight, Nat.shiftRight_eq_div_pow, BitVec.toNat_ofNat, Nat.mod_eq_of_lt hlt]

/-- Settles O56: each operation is a computation or a branch; the shifts and conditions are put in arithmetic. -/
theorem hostArithmetic : Obligations.HostArithmetic := by
  intro s hf hturn
  refine ⟨?shl, ?shr, ?or, ?and, ?mov, ?dec, ?bnz, ?bne, ?b⟩
  case shl =>
    intro rd rs n hop
    rw [← shiftLeft_eq_ofNat]
    exact step_hostOp hf hturn hop
  case shr =>
    intro rd rs n hop
    rw [← shiftRight_eq_ofNat]
    exact step_hostOp hf hturn hop
  case or => exact fun rd rs rt hop => step_hostOp hf hturn hop
  case and => exact fun rd rs imm hop => step_hostOp hf hturn hop
  case mov => exact fun rd imm hop => step_hostOp hf hturn hop
  case dec => exact fun rd hop => step_hostOp hf hturn hop
  case bnz =>
    intro rd k hop
    rw [step_hostOp hf hturn hop, hostOpStep, hostBranch_eq]
    simp [State.getReg, ← BitVec.toNat_inj]
  case bne =>
    intro rs val k hop
    rw [step_hostOp hf hturn hop, hostOpStep, hostBranch_eq]
    simp [State.getReg]
  case b => exact fun k hop => step_hostOp hf hturn hop

/-- Settles O59: the immediates of `init` and `pollLoop` fit, the others' need nothing; `send_registers_nodup`. -/
theorem pseudoInstructionsTranscribe : Obligations.PseudoInstructionsTranscribe := by
  intro p pos
  refine ⟨?others, ?immediates, send_registers_nodup⟩
  case others =>
    intro i hinit hloop
    refine Pseudo.transcribe_of_wf ?_ pos
    cases i with
    | init => exact absurd rfl hinit
    | pollLoop => exact absurd rfl hloop
    | _ => rfl
  case immediates =>
    intro hscl hbaud
    have hdivisors : p.divisorsFit = true := by
      rw [Params.divisorsFit, decide_eq_true hscl, decide_eq_true hbaud, Bool.and_self]
    refine ⟨Pseudo.transcribe_of_wf (i := .init) hdivisors pos, fun hspin => ?_⟩
    refine Pseudo.transcribe_of_wf (i := .pollLoop) ?_ pos
    rw [Pseudo.wf, hdivisors, Params.delayFits, decide_eq_true hspin, Bool.and_self]

end Sys2Proof.Machine
end

section
/-! SUPPORT. Proofs about instructions that complete: each of the CLK unit's, of I2CM's, of the commands and of UTX's
where nothing faults (40_clock_control, 41_i2c_config, 42_i2c_commands, 43_uart_tx); the reserved OPs, which never do
(R116); and the words after reset (R178). -/

namespace Sys2Proof.Machine

/-- Settles O32: the CLK window is never gated, and R104 refuses no two bits that gate no enabled unit. -/
theorem clkInstructionsComplete : Obligations.ClkInstructionsComplete := by
  refine ⟨fun s hf => hostRead_clocked hf rfl, fun a b s hf hi2c hutx => ?_⟩
  have hword : (BitVec.ofNat 32 (2 * b.toNat + a.toNat)).toNat = 2 * b.toNat + a.toNat := by
    cases a <;> cases b <;> rfl
  rw [exec_stClkClken _ hf, clkenWrite_eq, hword]
  cases a <;> cases b <;> simp [conclude_ok, hi2c, hutx]

/-- R105: a clocked I2CM is not gated. -/
theorem gated_i2cm {s : State} (hclk : s.clk.i2c = true) : s.gated .i2cm = false := by
  simp [State.gated, hclk]

/-- Settles O33: a clocked unit's read returns its word; the writes by `i2cmCtrlWrite_eq` and the fields' widths. -/
theorem i2cmRegisterInstructionsComplete : Obligations.I2cmRegisterInstructionsComplete := by
  intro s hf hclk
  have hg := gated_i2cm hclk
  refine ⟨hostRead_clocked hf hg, hostRead_clocked hf hg, hostRead_clocked hf hg, hostRead_clocked hf hg, ?rxdata,
    ?enable, ?disable, ?clkdiv, ?ownaddr⟩
  case rxdata =>
    intro b hb
    have hread : i2cmRxdataRead s = .ok (b.setWidth 32) := by rw [i2cmRxdataRead, hb]
    rw [exec, execLdI2cmRxdata, hread]
    exact hostRead_clocked hf hg
  case enable =>
    intro hen hdiv hpins
    rw [(I2cConfig.i2cmCtrlWrite 1#32 s hf).2]
    simp [hclk, hen, hdiv, hpins]
  case disable =>
    intro hen hbusy hrest
    rw [(I2cConfig.i2cmCtrlWrite 0#32 s hf).2]
    obtain hphase | hphase := hrest <;> simp [hclk, hen, hbusy, hphase]
  case clkdiv =>
    intro d hen
    obtain ⟨-, -, hwrite, -⟩ := i2cmConfigWrites (d.setWidth 32) s hf
    rw [hwrite, BitVec.toNat_setWidth_of_le (by decide)]
    simp [hclk, hen, Nat.not_le.mpr d.isLt]
  case ownaddr =>
    intro a hen
    obtain ⟨-, -, -, hwrite⟩ := i2cmConfigWrites (a.setWidth 32) s hf
    rw [hwrite, BitVec.toNat_setWidth_of_le (by decide)]
    simp [hclk, hen, Nat.not_le.mpr a.isLt]

/-- A command that I2CM is ready to take and R117 allows becomes pending. -/
theorem commandWrite_accepted {op : CmdOp} {b : Byte} {s : State} (hf : s.fault = none) (hclk : s.clk.i2c = true)
    (hen : s.i2cm.en = true) (hbusy : s.i2cm.busy = false) (h0 : op.hasOperand = false → b = 0#8)
    (hlegal : legal s.i2cm.phase s.i2cm.nackf op = none) :
    commandWrite (cmdWord op.code b) s = .next (accept (op.command b) s) := by
  rw [commandWrite_ready hf hclk hen hbusy h0, hlegal]

/-- Settles O34: R117's columns say where each command is legal. -/
theorem commandsAreAccepted : Obligations.CommandsAreAccepted := by
  intro s hf hclk hen hbusy
  refine ⟨?cmd, ?start, ?addr, ?write, ?read, ?stop⟩
  case cmd => exact fun op b hlegal h0 => commandWrite_accepted hf hclk hen hbusy h0 hlegal
  case start =>
    intro hphase
    refine commandWrite_accepted (op := .start) hf hclk hen hbusy (fun _ => rfl) ?_
    obtain hphase | hphase := hphase <;> simp [legal_start, hphase]
  case addr =>
    intro a7 dir hphase
    refine commandWrite_accepted (op := .addr) hf hclk hen hbusy nofun ?_
    rw [legal_addr, if_pos hphase]
  case write =>
    intro d hphase hclear
    refine commandWrite_accepted (op := .write) hf hclk hen hbusy nofun ?_
    simp [legal_write, hclear, hphase]
  case read =>
    intro hphase hclear
    constructor
    · refine commandWrite_accepted (op := .readAck) hf hclk hen hbusy (fun _ => rfl) ?_
      simp [legal_read (.inl rfl), hclear, hphase]
    · refine commandWrite_accepted (op := .readNack) hf hclk hen hbusy (fun _ => rfl) ?_
      simp [legal_read (.inr rfl), hclear, hphase]
  case stop =>
    intro hphase
    refine commandWrite_accepted (op := .stop) hf hclk hen hbusy (fun _ => rfl) ?_
    rw [legal_stop, if_pos (by simpa only [or_assoc] using hphase)]

/-- R95's layout in arithmetic. -/
theorem dataWord_toNat (hi lo : Byte) : (0#16 ++ hi ++ lo).toNat = 256 * hi.toNat + lo.toNat := by
  rw [BitVec.toNat_append, ← Nat.shiftLeft_add_eq_or_of_lt lo.isLt, Nat.shiftLeft_eq, BitVec.toNat_append]
  simp [Nat.mul_comm]

/-- Settles O35: a clocked unit's read returns its word; the writes by the statements of R130, R132, R135 and R136. -/
theorem utxInstructionsComplete : Obligations.UtxInstructionsComplete := by
  intro s hf hclk
  have hg : s.gated .utx = false := by simp [State.gated, hclk]
  refine ⟨hostRead_clocked hf hg, hostRead_clocked hf hg, hostRead_clocked hf hg, hostRead_clocked hf hg, ?enable,
    ?disable, ?baud, ?frame, ?data⟩
  case enable =>
    intro hen hdiv hpins
    obtain ⟨-, hwrite, -⟩ := UartTx.utxCtrlWrite 1#32 s hf
    rw [hwrite]
    simp [hclk, hen, hdiv, hpins]
  case disable =>
    intro hen htdr hshift
    obtain ⟨-, hwrite, -⟩ := UartTx.utxCtrlWrite 0#32 s hf
    rw [hwrite]
    simp [hclk, hen, htdr, hshift]
  case baud =>
    intro d hen
    obtain ⟨-, -, hwrite, -⟩ := utxConfigWrites (d.setWidth 32) s hf
    rw [hwrite, BitVec.toNat_setWidth_of_le (by decide)]
    simp [hclk, hen, Nat.not_le.mpr d.isLt]
  case frame =>
    intro hen
    obtain ⟨-, -, -, hwrite⟩ := utxConfigWrites 8#32 s hf
    rw [hwrite]
    simp [hclk, hen]
  case data =>
    intro hi lo hen htdr
    obtain ⟨-, hwrite⟩ := UartTx.utxDataWrite (0#16 ++ hi ++ lo) s hf
    have hhi := hi.isLt
    have hlo := lo.isLt
    have hfits : ¬65536 ≤ 256 * hi.toNat + lo.toNat := by omega
    have hlow : BitVec.ofNat 8 ((256 * hi.toNat + lo.toNat) % 256) = lo := by bv_omega
    rw [hwrite, dataWord_toNat, hlow]
    simp [hclk, hen, htdr, hfits]

/-- A reserved command word in arithmetic. -/
theorem reservedWord_eq (rest : BitVec 29) (op : BitVec 3) :
    rest ++ op = BitVec.ofNat 32 (8 * rest.toNat + op.toNat) := by
  have hr := rest.isLt
  have ho := op.isLt
  apply BitVec.eq_of_toNat_eq
  rw [BitVec.toNat_append, ← Nat.shiftLeft_add_eq_or_of_lt ho, Nat.shiftLeft_eq, BitVec.toNat_ofNat]
  omega

/-- R89: where a reserved command word has its reserved bits. -/
theorem cmdReserved_append (rest : BitVec 29) (op : BitVec 3) :
    cmdReserved (rest ++ op) = true ↔ ¬(rest.toNat % 32 = 0 ∧ rest.toNat < 8192) := by
  have hr := rest.isLt
  have ho := op.isLt
  rw [reservedWord_eq]
  simp only [cmdReserved, Bool.or_eq_true, bne_iff_ne, ne_eq, ← BitVec.toNat_inj, BitVec.extractLsb'_toNat,
    Nat.shiftRight_eq_div_pow, BitVec.toNat_ofNat]
  omega

/-- R116: a reserved OP is refused as an illegal command, behind the check of the reserved bits. -/
theorem commandWrite_reserved {op : BitVec 3} (hop : cmdOpOf op = none) (rest : BitVec 29) {s : State}
    (hf : s.fault = none) (hclk : s.clk.i2c = true) (hen : s.i2cm.en = true) (hbusy : s.i2cm.busy = false) :
    commandWrite (rest ++ op) s =
      .next (s.withFault (if rest.toNat % 32 = 0 ∧ rest.toNat < 8192 then .illegalCommand else .reservedBits)
        (s.params.i2cmBase + 0x0C#32) 4 .write (some (BitVec.ofNat 32 (8 * rest.toNat + op.toNat))) none) := by
  have hissue : cmdIssue (rest ++ op) s =
      .error (if rest.toNat % 32 = 0 ∧ rest.toNat < 8192 then .illegalCommand else .reservedBits) := by
    simp only [cmdIssue, cmdReserved_append, hen, hbusy, cmdOp, BitVec.extractLsb'_append_eq_right, hop]
    by_cases hlow : rest.toNat % 32 = 0 ∧ rest.toNat < 8192
    · simp [hlow]
    · simp [hlow]
  have hcode : (if rest.toNat % 32 = 0 ∧ rest.toNat < 8192 then FaultCode.illegalCommand
      else .reservedBits).recordsPhase = false := by
    split_ifs <;> rfl
  have hg : s.gated RegName.i2cmCmd.unit = false := gated_i2cm hclk
  rw [commandWrite, hostWrite_clocked hf hg, hissue, conclude_error, State.raise_eq, hcode, reservedWord_eq]
  rfl

/-- Settles O24: both reserved codes name no command. -/
theorem reservedOpsFault : Obligations.ReservedOpsFault :=
  fun rest _ hf hclk hen hbusy =>
    ⟨commandWrite_reserved (op := 0b000#3) rfl rest hf hclk hen hbusy,
     commandWrite_reserved (op := 0b111#3) rfl rest hf hclk hen hbusy⟩

/-- Settles O36: the reset state is written out; its units are gated, and every instruction of theirs is an access. -/
theorem resetWords : Obligations.ResetWords := by
  intro p
  refine ⟨?words, rfl, rfl, rfl, rfl, rfl, rfl, rfl, fun i hi => ?gated⟩
  case words =>
    simp only [State.readable, State.resetWith_clk, State.resetWith_i2cm, State.resetWith_utx]
    decide
  obtain ⟨r, d, v, body, hunit, hexec⟩ := exec_eq_hostAccess i (State.resetWith p)
  have hg : (State.resetWith p).gated r.unit = true := by
    rw [hunit]
    cases hu : instrUnit i with
    | clk => exact absurd hu hi
    | i2cm => rfl
    | utx => rfl
  exact ⟨_, _, hexec.trans (hostAccess_gated rfl hg), rfl, rfl⟩

end Sys2Proof.Machine
end

section
/-! SUPPORT. Proof about the optional sensor (44_host_sequences section 3, R149): its answers reach BUS_TRACE and RXDATA
through ENGINE's completion. -/

namespace Sys2Proof.Machine

/-- R149: on ENGINE's turn the sensor releases the bus. -/
theorem SensorSlave.release {value : Byte → Nat → BitVec 16} {s : State} (h : SensorSlave value s)
    (hturn : s.choice.turn = .engine) : s.choice.release = true :=
  (h.2 hturn).1

/-- R149: the sensor acknowledges its own address. -/
theorem SensorSlave.ack_addr {value : Byte → Nat → BitVec 16} {s : State} {b : Byte} (h : SensorSlave value s)
    (hturn : s.choice.turn = .engine) (hpending : s.i2cm.pending = some (.addr b)) :
    s.choice.ack = decide (b.toNat / 2 = s.params.slaveAddr7.toNat) := by
  obtain ⟨-, hanswer⟩ := h.2 hturn
  simp only [hpending] at hanswer
  have hb := b.isLt
  rw [hanswer, Bool.eq_iff_iff, beq_iff_eq, decide_eq_true_iff, ← BitVec.toNat_inj, BitVec.extractLsb'_toNat,
    Nat.shiftRight_eq_div_pow]
  omega

/-- R149: the sensor acknowledges each byte written to it. -/
theorem SensorSlave.ack_write {value : Byte → Nat → BitVec 16} {s : State} {b : Byte} (h : SensorSlave value s)
    (hturn : s.choice.turn = .engine) (hpending : s.i2cm.pending = some (.write b))
    (haddressed : (sensorView s.params.slaveAddr7 s.i2cm.busTrace).addressed = some .write) : s.choice.ack = true := by
  obtain ⟨-, hanswer⟩ := h.2 hturn
  simp only [hpending] at hanswer
  exact hanswer haddressed

/-- R149: the sensor sends the bytes of the selected register's sample. -/
theorem SensorSlave.byte_read {value : Byte → Nat → BitVec 16} {s : State} {sel : Byte} (h : SensorSlave value s)
    (hturn : s.choice.turn = .engine)
    (hpending : s.i2cm.pending = some .readAck ∨ s.i2cm.pending = some .readNack)
    (haddressed : (sensorView s.params.slaveAddr7 s.i2cm.busTrace).addressed = some .read)
    (hsel : (sensorView s.params.slaveAddr7 s.i2cm.busTrace).sel = some sel)
    (hsent : (sensorView s.params.slaveAddr7 s.i2cm.busTrace).sent < 2) :
    s.choice.byte = sampleByte (value sel (sensorView s.params.slaveAddr7 s.i2cm.busTrace).reads)
      ((sensorView s.params.slaveAddr7 s.i2cm.busTrace).sent + 1) := by
  obtain ⟨-, hanswer⟩ := h.2 hturn
  obtain hpending | hpending := hpending
  all_goals
    simp only [hpending] at hanswer
    exact hanswer sel haddressed hsel hsent

/-- R149: the sample's high byte comes first. -/
theorem sampleByte_one (v : BitVec 16) : sampleByte v 1 = BitVec.ofNat 8 (v.toNat / 256) := by
  apply BitVec.eq_of_toNat_eq
  simp [sampleByte, BitVec.extractLsb'_toNat, Nat.shiftRight_eq_div_pow]

/-- R149: its low byte comes second. -/
theorem sampleByte_two (v : BitVec 16) : sampleByte v 2 = BitVec.ofNat 8 (v.toNat % 256) := by
  apply BitVec.eq_of_toNat_eq
  simp [sampleByte]

/-- Settles O60: the sensor releases the bus, so the pending command completes, with the answers the sensor gives. -/
theorem sensorAnswers : Obligations.SensorAnswers := by
  intro value s h hf hturn hbusy view
  have completes {c : Command} (hc : s.i2cm.pending = some c) := step_completion hf hturn (h.release hturn) hbusy hc
  have receives (hread : s.i2cm.pending = some .readAck ∨ s.i2cm.pending = some .readNack) :
      ∃ t, step s = .next t ∧ t.i2cm.rxdata = some s.choice.byte := by
    obtain hc | hc := hread
    · exact ⟨_, completes hc, rfl⟩
    · exact ⟨_, completes hc, rfl⟩
  refine ⟨h.1, ?any, ?addr, ?write, ?read⟩
  case any => exact fun c hc => ⟨_, completes hc, rfl⟩
  case addr =>
    intro b hc
    rw [← h.ack_addr hturn hc]
    exact ⟨_, completes hc, rfl⟩
  case write =>
    intro b hc haddressed
    rw [← h.ack_write hturn hc haddressed]
    exact ⟨_, completes hc, rfl⟩
  case read =>
    intro sel hread haddressed hsel
    obtain ⟨t, hstep, hrx⟩ := receives hread
    have hbyte (hsent : view.sent < 2) : s.choice.byte = sampleByte (value sel view.reads) (view.sent + 1) :=
      h.byte_read hturn hread haddressed hsel hsent
    constructor
    · intro hsent
      exact ⟨t, hstep, by rw [hrx, hbyte (by omega), hsent, sampleByte_one]⟩
    · intro hsent
      exact ⟨t, hstep, by rw [hrx, hbyte (by omega), hsent, sampleByte_two]⟩

end Sys2Proof.Machine
end
